-- ==== Sys2Proof/Word.lean ====
section
/-! DEFINITION. The words of FPB: the port byte (rules R9, R53) and the command word (rule R65), with the plain bit
operations the rules use. -/

namespace Sys2Proof

/-- One 8-bit port, register or image byte. Bit 0 is the least significant (R9). -/
abbrev Byte := BitVec 8

/-- One 16-bit command word, format CMD16 (R65). -/
abbrev CmdWord := BitVec 16

/-- Replace the bits of `mask` in `old` by `bits`: `(old & ~mask) | bits` (R80 step 2, glossary R12 "Masked RMW"). -/
def maskedByte (old mask bits : Byte) : Byte := (old &&& ~~~mask) ||| bits

/-- A Boolean as the byte 1 or 0 (R10, R67). -/
def boolByte (b : Bool) : Byte := if b then 0x01#8 else 0x00#8

end Sys2Proof
end

