-- ==== Sys2Proof/Config.lean ====
section
/-! DEFINITION. The constants of rule R7, the decided parameters of rule R8, and the values the spec leaves open, in one
place (R7: "so a model holds them in one configuration record"). The two parameters whose alternative value the spec
also specifies in full, `RMW_SOURCE` and `RMW_ATOMIC`, are data of the machine (`State.cfg`), so that every statement
says which of them it needs. The bodiless constants below have no value any proof can see. -/

namespace Sys2Proof.Config

/-- `PORT_WIDTH`: width of each port, of `data` and of `ctl` (R7). -/
def portWidth : Nat := 8
/-- `N_PORTS` (R7). -/
def nPorts : Nat := 2
/-- `N_IMAGES`: bootstrap, monitor, bios (R7, R47). -/
def nImages : Nat := 3

/-- `BIT_MP`: port B bit of mem_protect, active-high (R7). -/
def bitMp : Nat := 0
/-- `BIT_STB_N`: port B bit of the strobe line, wire-active-low (R7). -/
def bitStbN : Nat := 1
/-- `BIT_EF4_N`: port B bit of the interrupt-request line, wire-active-low (R7). -/
def bitEf4N : Nat := 2
/-- `BIT_CLEAR_N` (R7). -/
def bitClearN : Nat := 3
/-- `BIT_WAIT_N` (R7). -/
def bitWaitN : Nat := 4

/-- `M_LOAD`: mode code, in place in the port B byte (R7, R63). -/
def mLoad : Byte := 0x00#8
/-- `M_PAUSE` (R7, R63). -/
def mPause : Byte := 0x08#8
/-- `M_RESET` (R7, R63). -/
def mReset : Byte := 0x10#8
/-- `M_RUN` (R7, R63). -/
def mRun : Byte := 0x18#8

/-- `MASK_MP` (R61). -/
def maskMp : Byte := 0x01#8
/-- `MASK_STB` (R61). -/
def maskStb : Byte := 0x02#8
/-- `MASK_EF4` (R61). -/
def maskEf4 : Byte := 0x04#8
/-- `MASK_MODE` (R7, R61). -/
def maskMode : Byte := 0x18#8
/-- The three bits of port B that no field owns (R27, R61). -/
def maskHi : Byte := 0xE0#8

/-- `T_PULSE` in milliseconds: the minimum hold of a pulse (R7, R176). -/
def tPulseMs : Nat := 5
/-- `T_MAX`: no upper bound on any delay (R8, D15). -/
def tMaxMs : Option Nat := none

/-- `LM_CMD1`: LOAD_MONITOR step 7 (R7, R113). -/
def lmCmd1 : Byte := 0x80#8
/-- `LM_CMD2`: LOAD_MONITOR step 14 (R7, R113). -/
def lmCmd2 : Byte := 0x84#8
/-- The byte that follows each of the two, LOAD_MONITOR steps 9 and 16 (R113). -/
def lmFollow : Byte := 0x00#8
/-- `RM_B0` (R7, R114). -/
def rmB0 : Byte := 0xC0#8
/-- `RM_B1` (R7, R114). -/
def rmB1 : Byte := 0x80#8
/-- `RM_B2` (R7, R114). -/
def rmB2 : Byte := 0x00#8

/-- `DEF_DATA`: cold default of port A (R7, R192). -/
def defData : Byte := 0x00#8
/-- `DEF_MODE`: cold default mode, RESET (R7). -/
def defMode : Byte := mReset
/-- `DEF_CTL`, 0x16: the cold default mode, protect off, both lines deasserted, that is wire 1, bits 7:5 zero
(R8, R193). -/
def defCtl : Byte := defMode ||| maskEf4 ||| maskStb

/-- `LABEL(LOAD)` (R8, R105). -/
def labelLoad : String := "LOAD "
/-- `LABEL(RESET)` (R8, R105). -/
def labelReset : String := "RESET"
/-- `LABEL(PAUSE)` (R8, R105). -/
def labelPause : String := "PAUSE"
/-- `LABEL(RUN)` (R8, R105). -/
def labelRun : String := "RUN  "

/-- `TOGGLE_CODE` (R8, R69). -/
def toggleCode : Byte := 0x00#8
/-- `NEWLINE_CODES` (R8, R69). -/
def newlineCodes : List Byte := [0x0A#8]
/-- The quit symbol `q` (R70 test 1). -/
def quitCode : Byte := 0x71#8
/-- `PRINTABLE`: 0x20 to 0x7E (R8, R71). -/
def isPrintable (c : Byte) : Bool := decide (0x20 ≤ c.toNat ∧ c.toNat ≤ 0x7E)
/-- `FOLD_IN_KEYBOARD` (R8, R131): the folded code is what KEYBOARD mode sends. -/
def foldInKeyboard : Bool := true

/-- `DIR_ALL_OUTPUT`, OPEN (R8, R46, D10): the direction-register value that means "all output". It has no body, so a
claim about it holds for every value. -/
opaque dirAllOutput : Byte

/-- The value of an 8-bit register of FPB in a session that has not attached yet: unspecified (R37, R198). The argument
is the machine's count of free values taken so far. -/
opaque unspecByte : Nat → Byte
/-- The same for a Boolean register (`fresh_a`, `fresh_b`). -/
opaque unspecBool : Nat → Bool
/-- The same for the 4-bit register `last_st`. -/
opaque unspecNibble : Nat → BitVec 4

end Sys2Proof.Config
end

