-- ==== Sys2Proof/Syntax.lean ====
section
/-! DEFINITION. What FPB is given: the three input formats (rule R60) and, one constructor per row of the opcode table,
the operations they stand for. -/

namespace Sys2Proof

/-- The host's InteractionMode, which selects how a key symbol is decoded (R36, R71). -/
inductive IMode where
  | control
  | keyboard
  deriving DecidableEq, Repr

/-- One word offered to FPB in one of the three input formats: a CMD16 word on the command port (R65), a KEY8 symbol
from the input source, as typed (R69), or the EVT strobe (R72). -/
inductive Offer where
  | cmd (w : CmdWord)
  | key (c : Byte)
  | evt
  deriving DecidableEq, Repr

/-- The operations, one constructor per row of the opcode table. A Boolean operand is the logical value (R68); `setMode`
carries all eight bits of `arg`, legal or not (R68, R84); `reservedCmd` carries the word (R73); the key rows that stand
for many codes carry the code `c'` of R69. -/
inductive Instr where
  -- format CMD16
  | getData
  | setData (b : Byte)
  | getMode
  | setMode (m : Byte)
  | getMp
  | setMp (v : Bool)
  | getEf4
  | setEf4 (v : Bool)
  | getStb
  | setStb (v : Bool)
  | pulse
  | loadProgram0
  | loadProgram1
  | loadProgram2
  | loadMonitor
  | runMonitor
  | reservedCmd (w : CmdWord)
  -- format KEY8
  | quit
  | toggle
  | keyIrqI
  | keyIrqNewline
  | keyIrqSpace
  | keyHex0
  | keyHex1
  | keyHex2
  | keyHex3
  | keyHex4
  | keyHex5
  | keyHex6
  | keyHex7
  | keyHex8
  | keyHex9
  | keyHexA
  | keyHexB
  | keyHexC
  | keyHexD
  | keyHexE
  | keyHexF
  | keyL
  | keyR
  | keyG
  | keyW
  | keyP
  | keyZ
  | keyM
  | keyNop (c : Byte)
  | keyChar (c : Byte)
  | keyboardNop (c : Byte)
  -- format EVT
  | release
  deriving DecidableEq, Repr

end Sys2Proof
end

