-- ==== Sys2Proof/WellFormed.lean ====
section
/-! DEFINITION. Which instructions the encodings can produce: the reserved words of rule R73 and the code ranges of
rules R70, R71, R143 to R145. Every other constructor is well formed for all its operands. -/

namespace Sys2Proof

/-- Bits 15:12 of a command word (R65). -/
def cmdOp (w : CmdWord) : BitVec 4 := w.extractLsb' 12 4
/-- Bits 11:8 of a command word, must be zero (R65). -/
def cmdZ (w : CmdWord) : BitVec 4 := w.extractLsb' 8 4
/-- Bits 7:0 of a command word (R65). -/
def cmdArg (w : CmdWord) : Byte := w.extractLsb' 0 8

/-- The reserved words, clause by clause as R73 lists them. -/
def isReservedCmd (w : CmdWord) : Bool :=
  let op := (cmdOp w).toNat
  let arg := (cmdArg w).toNat
  decide (op = 0xE ∨ op = 0xF)
    || decide (cmdZ w ≠ 0)
    || (decide (op ∈ [0x0, 0x2, 0x4, 0x6, 0x8, 0xA, 0xC, 0xD]) && decide (arg ≠ 0))
    || (decide (op ∈ [0x5, 0x7, 0x9]) && decide (arg / 2 ≠ 0))
    || (decide (op = 0xB) && (decide (arg / 4 ≠ 0) || decide (arg % 4 = 3)))

/-- The upper-case letters, which folding removes (R69). -/
def isUpper (c : Byte) : Bool := decide (0x41 ≤ c.toNat ∧ c.toNat ≤ 0x5A)

/-- The folded codes CONTROL mode gives an action (R70): quit, toggle, `i`, newline, space, the hexadecimal digits, and
`l r g w p z m`. -/
def namedControlCodes : List Byte :=
  [Config.quitCode, Config.toggleCode, 0x69#8] ++ Config.newlineCodes ++ [0x20#8] ++
  [0x30#8, 0x31#8, 0x32#8, 0x33#8, 0x34#8, 0x35#8, 0x36#8, 0x37#8, 0x38#8, 0x39#8] ++
  [0x61#8, 0x62#8, 0x63#8, 0x64#8, 0x65#8, 0x66#8] ++
  [0x6C#8, 0x72#8, 0x67#8, 0x77#8, 0x70#8, 0x7A#8, 0x6D#8]

/-- The instructions some input word decodes to. -/
def Instr.wellFormed : Instr → Bool
  | .getData | .setData _ | .getMode | .setMode _ | .getMp | .setMp _ | .getEf4 | .setEf4 _ | .getStb | .setStb _ => true
  | .pulse | .loadProgram0 | .loadProgram1 | .loadProgram2 | .loadMonitor | .runMonitor => true
  | .reservedCmd w => isReservedCmd w
  | .quit | .toggle | .keyIrqI | .keyIrqNewline | .keyIrqSpace => true
  | .keyHex0 | .keyHex1 | .keyHex2 | .keyHex3 | .keyHex4 | .keyHex5 | .keyHex6 | .keyHex7 => true
  | .keyHex8 | .keyHex9 | .keyHexA | .keyHexB | .keyHexC | .keyHexD | .keyHexE | .keyHexF => true
  | .keyL | .keyR | .keyG | .keyW | .keyP | .keyZ | .keyM => true
  | .keyNop c => !isUpper c && !(namedControlCodes.contains c)
  | .keyChar c => Config.isPrintable c && c != Config.quitCode && !(isUpper c && (Config.foldInKeyboard || c == 0x51#8))
  | .keyboardNop c => !Config.isPrintable c && c != Config.toggleCode
  | .release => true

/-- The interaction modes in which an instruction's word decodes to it (R70, R71): commands, events, quit and toggle in
both, the CONTROL table in CONTROL, the two KEYBOARD rows in KEYBOARD. -/
def Instr.decodesIn : Instr → IMode → Bool
  | .getData, _ | .setData _, _ | .getMode, _ | .setMode _, _ | .getMp, _ | .setMp _, _ | .getEf4, _ | .setEf4 _, _
  | .getStb, _ | .setStb _, _ => true
  | .pulse, _ | .loadProgram0, _ | .loadProgram1, _ | .loadProgram2, _ | .loadMonitor, _ | .runMonitor, _ => true
  | .reservedCmd _, _ | .quit, _ | .toggle, _ | .release, _ => true
  | .keyIrqI, m | .keyIrqNewline, m | .keyIrqSpace, m => m == .control
  | .keyHex0, m | .keyHex1, m | .keyHex2, m | .keyHex3, m | .keyHex4, m | .keyHex5, m | .keyHex6, m | .keyHex7, m
  | .keyHex8, m | .keyHex9, m | .keyHexA, m | .keyHexB, m | .keyHexC, m | .keyHexD, m | .keyHexE, m | .keyHexF, m =>
      m == .control
  | .keyL, m | .keyR, m | .keyG, m | .keyW, m | .keyP, m | .keyZ, m | .keyM, m | .keyNop _, m => m == .control
  | .keyChar _, m | .keyboardNop _, m => m == .keyboard

end Sys2Proof
end

