-- ==== Sys2Proof/Decode.lean ====
section
/-! DEFINITION. From an input word to the instruction it stands for, total in every format (a reserved command word
decodes to `reservedCmd`, rule R73), and back: the encoder, written from the same tables (rules R66, R70 to R72). -/

namespace Sys2Proof

/-! Format CMD16. -/

/-- One row of R66: the word matches when its bits under `mask` are `code`. -/
structure CmdRow where
  mask : CmdWord
  code : CmdWord
  build : Byte → Instr

/-- The rows of R66, in the order of `op`; operands are assembled as R68 says (`arg` whole, or `arg[0]`). -/
def cmdTable : List CmdRow :=
  [ ⟨0xFFFF#16, 0x0000#16, fun _ => .getData⟩,
    ⟨0xFF00#16, 0x1000#16, fun a => .setData a⟩,
    ⟨0xFFFF#16, 0x2000#16, fun _ => .getMode⟩,
    ⟨0xFF00#16, 0x3000#16, fun a => .setMode a⟩,
    ⟨0xFFFF#16, 0x4000#16, fun _ => .getMp⟩,
    ⟨0xFFFE#16, 0x5000#16, fun a => .setMp (a.getLsbD 0)⟩,
    ⟨0xFFFF#16, 0x6000#16, fun _ => .getEf4⟩,
    ⟨0xFFFE#16, 0x7000#16, fun a => .setEf4 (a.getLsbD 0)⟩,
    ⟨0xFFFF#16, 0x8000#16, fun _ => .getStb⟩,
    ⟨0xFFFE#16, 0x9000#16, fun a => .setStb (a.getLsbD 0)⟩,
    ⟨0xFFFF#16, 0xA000#16, fun _ => .pulse⟩,
    ⟨0xFFFF#16, 0xB000#16, fun _ => .loadProgram0⟩,
    ⟨0xFFFF#16, 0xB001#16, fun _ => .loadProgram1⟩,
    ⟨0xFFFF#16, 0xB002#16, fun _ => .loadProgram2⟩,
    ⟨0xFFFF#16, 0xC000#16, fun _ => .loadMonitor⟩,
    ⟨0xFFFF#16, 0xD000#16, fun _ => .runMonitor⟩ ]

/-- The instruction of a command word by the first row that matches; a word no row matches is reserved (R66, R73). -/
def decodeRows : List CmdRow → CmdWord → Instr
  | [], w => .reservedCmd w
  | r :: rs, w => if w &&& r.mask = r.code then r.build (cmdArg w) else decodeRows rs w

/-- The instruction of a command word. -/
def decodeCmd (w : CmdWord) : Instr := decodeRows cmdTable w

/-! Format KEY8. -/

/-- Upper case to lower case, before any test (R69, R131). -/
def foldCode (c : Byte) : Byte := if isUpper c then c + 0x20#8 else c

/-- R70: the codes of KEY_IRQ. -/
def irqRows : List (Byte × Instr) :=
  (0x69#8, .keyIrqI) :: List.append (Config.newlineCodes.map fun c => (c, .keyIrqNewline)) [(0x20#8, .keyIrqSpace)]

/-- R70: the codes of KEY_HEX. -/
def hexRows : List (Byte × Instr) :=
  [(0x30#8, .keyHex0), (0x31#8, .keyHex1), (0x32#8, .keyHex2), (0x33#8, .keyHex3), (0x34#8, .keyHex4),
   (0x35#8, .keyHex5), (0x36#8, .keyHex6), (0x37#8, .keyHex7), (0x38#8, .keyHex8), (0x39#8, .keyHex9),
   (0x61#8, .keyHexA), (0x62#8, .keyHexB), (0x63#8, .keyHexC), (0x64#8, .keyHexD), (0x65#8, .keyHexE),
   (0x66#8, .keyHexF)]

/-- R70: the codes of the mode, protect and bootstrap keys. -/
def letterRows : List (Byte × Instr) :=
  [(0x6C#8, .keyL), (0x72#8, .keyR), (0x67#8, .keyG), (0x77#8, .keyW), (0x70#8, .keyP), (0x7A#8, .keyZ),
   (0x6D#8, .keyM)]

/-- R70's CONTROL table, in the order its rows are tried. -/
def controlTable : List (Byte × Instr) := irqRows ++ hexRows ++ letterRows

/-- A folded code in CONTROL mode: its row, else the no-op (R70 item 3, R143). -/
def decodeControl (f : Byte) : Instr := (controlTable.lookup f).getD (.keyNop f)

/-- A code in KEYBOARD mode: a character when printable, else the no-op (R71, R144, R145). -/
def decodeKeyboard (x : Byte) : Instr := if Config.isPrintable x then .keyChar x else .keyboardNop x

/-- A key symbol as typed: fold, then quit, then toggle, then by interaction mode (R70, R130). -/
def decodeKey (m : IMode) (c : Byte) : Instr :=
  let f := foldCode c
  if f = Config.quitCode then .quit
  else if f = Config.toggleCode then .toggle
  else match m with
    | .control => decodeControl f
    | .keyboard => decodeKeyboard (if Config.foldInKeyboard then f else c)

/-! All three formats. -/

/-- The instruction an offered word stands for in interaction mode `m`; the mode matters to KEY8 alone (R71). -/
def decode (m : IMode) : Offer → Instr
  | .cmd w => decodeCmd w
  | .key c => decodeKey m c
  | .evt => .release

/-- The command word `{op, z = 0, arg}` (R65). -/
def cmdWord (op : BitVec 4) (arg : Byte) : CmdWord := (op ++ 0x0#4 ++ arg : BitVec (4 + 4 + 8))

/-- The word of an instruction, from R66 and R70 to R72 (a key's word is its folded code). -/
def encode : Instr → Offer
  | .getData => .cmd (cmdWord 0x0#4 0x00#8)
  | .setData b => .cmd (cmdWord 0x1#4 b)
  | .getMode => .cmd (cmdWord 0x2#4 0x00#8)
  | .setMode m => .cmd (cmdWord 0x3#4 m)
  | .getMp => .cmd (cmdWord 0x4#4 0x00#8)
  | .setMp v => .cmd (cmdWord 0x5#4 (boolByte v))
  | .getEf4 => .cmd (cmdWord 0x6#4 0x00#8)
  | .setEf4 v => .cmd (cmdWord 0x7#4 (boolByte v))
  | .getStb => .cmd (cmdWord 0x8#4 0x00#8)
  | .setStb v => .cmd (cmdWord 0x9#4 (boolByte v))
  | .pulse => .cmd (cmdWord 0xA#4 0x00#8)
  | .loadProgram0 => .cmd (cmdWord 0xB#4 0x00#8)
  | .loadProgram1 => .cmd (cmdWord 0xB#4 0x01#8)
  | .loadProgram2 => .cmd (cmdWord 0xB#4 0x02#8)
  | .loadMonitor => .cmd (cmdWord 0xC#4 0x00#8)
  | .runMonitor => .cmd (cmdWord 0xD#4 0x00#8)
  | .reservedCmd w => .cmd w
  | .quit => .key 0x71#8
  | .toggle => .key 0x00#8
  | .keyIrqI => .key 0x69#8
  | .keyIrqNewline => .key 0x0A#8
  | .keyIrqSpace => .key 0x20#8
  | .keyHex0 => .key 0x30#8
  | .keyHex1 => .key 0x31#8
  | .keyHex2 => .key 0x32#8
  | .keyHex3 => .key 0x33#8
  | .keyHex4 => .key 0x34#8
  | .keyHex5 => .key 0x35#8
  | .keyHex6 => .key 0x36#8
  | .keyHex7 => .key 0x37#8
  | .keyHex8 => .key 0x38#8
  | .keyHex9 => .key 0x39#8
  | .keyHexA => .key 0x61#8
  | .keyHexB => .key 0x62#8
  | .keyHexC => .key 0x63#8
  | .keyHexD => .key 0x64#8
  | .keyHexE => .key 0x65#8
  | .keyHexF => .key 0x66#8
  | .keyL => .key 0x6C#8
  | .keyR => .key 0x72#8
  | .keyG => .key 0x67#8
  | .keyW => .key 0x77#8
  | .keyP => .key 0x70#8
  | .keyZ => .key 0x7A#8
  | .keyM => .key 0x6D#8
  | .keyNop c => .key c
  | .keyChar c => .key c
  | .keyboardNop c => .key c
  | .release => .evt

/-! The host's view: a word with its width in bits. -/

/-- Why a width and value are no input word of FPB. -/
inductive OfferError where
  /-- No format has this width (R60: 16, 8 and 1 bits). -/
  | noFormatOfWidth (nbits : Nat)
  /-- The EVT line is low: no event (R72). -/
  | noStrobe
  deriving DecidableEq, Repr

/-- The input word of `nbits` bits and value `w`: 16 bits are CMD16, 8 are KEY8, 1 is EVT. Widths above 16 carry a KEY8
code in bits 7:0 and, above it, only the reader's `order` numbers of the table, which no symbol has (98_reader). -/
def offerOfBits (nbits w : Nat) : Except OfferError Offer :=
  if nbits = 16 then .ok (.cmd (BitVec.ofNat 16 w))
  else if nbits = 8 ∨ 16 < nbits then .ok (.key (BitVec.ofNat 8 w))
  else if nbits = 1 then if w % 2 = 1 then .ok .evt else .error .noStrobe
  else .error (.noFormatOfWidth nbits)

/-- The instruction the decoder reads from a word of the opcode table, in CONTROL mode, the mode after reset (R37). -/
def decodeTableWord (nbits w : Nat) : Option Instr :=
  match offerOfBits nbits w with
  | .ok o => some (decode .control o)
  | .error _ => none

end Sys2Proof
end

