-- ==== Sys2Proof/Machine/State.lean ====
section
/-! DEFINITION. Everything the spec gives the machine, as plain data: FPB's registers (10_state), the host's state
(rule R36), the peripheral and the images it reaches (20_memory), the environment's answers (rules R44, R49, R50, R57),
and the outputs an observer has (rule R179). -/

namespace Sys2Proof.Machine

/-! Names. -/

/-- The run mode of the target: the four values of R100. -/
inductive Mode where
  | load
  | pause
  | reset
  | run
  deriving DecidableEq, Repr

/-- The two ports (R7). -/
inductive Port where
  | a
  | b
  deriving DecidableEq, Repr

/-- The four registers of the port space, under the symbolic names of R8 and R41. -/
inductive PortReg where
  | dirA
  | dirB
  | portA
  | portB
  deriving DecidableEq, Repr

/-- Read or write, as a fault records it (R161, R165). -/
inductive Dir where
  | read
  | write
  deriving DecidableEq, Repr

/-- The three firmware images, in the order the bootstrap uses them (R47). -/
inductive ImageId where
  | bootstrap
  | monitor
  | bios
  deriving DecidableEq, Repr

/-- The two agents that make accesses (R56). -/
inductive Agent where
  | seq
  | rel
  deriving DecidableEq, Repr

/-! Registers. -/

/-- `run`, the status (R29). -/
inductive RunState where
  | unattached
  | idle
  | busy
  | faulted
  | terminated
  deriving DecidableEq, Repr

/-- `cause`: the fatal fault that put FPB in FAULTED with what its rule records, `none` for code 0 (R31, R161 to R165).
The count of bytes applied that R164 names is `seqPc.k`, which a fault keeps. -/
inductive Cause where
  | none
  | configurationError (p : Port) (d : Dir)
  | imageNotFound (k : ImageId)
  | imageReadError (k : ImageId)
  | portIOError (p : Port) (d : Dir)
  deriving DecidableEq, Repr

/-- The composites a frame of `seq_pc` can name (R30). -/
inductive CompositeOp where
  | loadMonitor
  | runMonitor
  | loadProgram
  | pulse
  deriving DecidableEq, Repr

/-- One frame `(op, step)` of `seq_pc` (R30). -/
structure Frame where
  op   : CompositeOp
  step : Nat
  deriving DecidableEq, Repr

/-- `seq_pc`: the frames, outermost first, and the count `k` of image bytes consumed (R30). -/
structure SeqPc where
  frames : List Frame
  k      : Nat
  deriving DecidableEq, Repr

/-- `(NONE, 0, 0)`: no composite in progress (R30). -/
def SeqPc.empty : SeqPc := ⟨[], 0⟩

/-- The two lines a release deasserts (R146). -/
inductive Line where
  | ef4
  | stb
  deriving DecidableEq, Repr

/-- How far a setter of REL has come when setters are not atomic (R57): not begun, old byte read, new byte written. -/
inductive SetterStage where
  | start
  | haveOld (old : Byte)
  | written (new : Byte)
  deriving DecidableEq, Repr

/-- Where REL stands in its action: the line it deasserts next and how far that setter has come (R57, R146). -/
structure RelPos where
  line  : Line
  stage : SetterStage
  deriving DecidableEq, Repr

/-- The control loop and its process: running, ended by quit (final newline printed, success status), ended by a fatal
fault (R130, R132, R149, R168). -/
inductive LoopState where
  | running
  | exitedSuccess
  | exitedFailure
  deriving DecidableEq, Repr

/-! Outputs. -/

/-- `Resp(st, val)` on the command port (R67). -/
structure Resp where
  st  : BitVec 4
  val : Byte
  deriving DecidableEq, Repr

/-- The status tuple the loop renders after a symbol (R148). -/
structure StatusTuple where
  imode      : IMode
  label      : String
  memProtect : Bool
  data       : Byte
  deriving DecidableEq, Repr

/-- What an observer has, in order (R55, R179): each access at the collaborators with the agent that made it, failed
ones too; the begin and end of each pulse hold with its floor in milliseconds (R176); the response of each command (R67)
and the status after each symbol (R148). -/
inductive Event where
  | read (ag : Agent) (r : PortReg) (v : Byte)
  | readFail (ag : Agent) (r : PortReg)
  | write (ag : Agent) (r : PortReg) (v : Byte)
  | writeFail (ag : Agent) (r : PortReg) (v : Byte)
  | holdBegin (floorMs : Nat)
  | holdEnd
  | imgOpen (k : ImageId)
  | imgOpenFail (k : ImageId)
  | imgByte (k : ImageId) (x : Byte)
  | imgEof (k : ImageId)
  | imgReadFail (k : ImageId)
  | resp (r : Resp)
  | status (v : StatusTuple)
  deriving DecidableEq, Repr

/-! The world outside. -/

/-- The peripheral's four byte registers (R41). -/
structure Periph where
  dirA  : Byte
  dirB  : Byte
  portA : Byte
  portB : Byte
  deriving DecidableEq, Repr

/-- The parameters `IMG[0..2]` (R47). -/
structure Images where
  bootstrap : List Byte
  monitor   : List Byte
  bios      : List Byte
  deriving DecidableEq, Repr

/-- PIO's answer to one access: done, or failed, in which case a written register is left at `left` (R44, R45). -/
inductive PioReply where
  | ok
  | fail (left : Byte)
  deriving DecidableEq, Repr

/-- IMG's answer to one open or read (R49, R50). -/
inductive ImgReply where
  | ok
  | fail
  deriving DecidableEq, Repr

/-- What happens at one point between two atomic steps of SEQ, or between two commands of one key (R57, R147, R172):
`arrivals` release events are delivered, REL takes up to `relSteps` atomic steps, and then, with `kill`, the process is
killed (R180, R206). -/
structure Slot where
  kill     : Bool
  arrivals : Nat
  relSteps : Nat
  deriving DecidableEq, Repr

/-- The environment's answers still to come. Past the end of a list every access succeeds and nothing interleaves. -/
structure Env where
  pio   : List PioReply
  img   : List ImgReply
  sched : List Slot
  deriving DecidableEq, Repr

/-- Where a setter reads the old byte (R8, R80). -/
inductive RmwSource where
  | mirror
  | port
  deriving DecidableEq, Repr

/-- The two decided parameters whose alternative the spec also specifies (R8): `RMW_SOURCE` and `RMW_ATOMIC`. -/
structure Params where
  rmwSource : RmwSource
  rmwAtomic : Bool
  deriving DecidableEq, Repr

/-- The values the spec decides (R8, D5, D7). -/
def Params.decided : Params := ⟨.mirror, true⟩

/-- One thing the outside does to FPB: offer a word, let time pass, or start a new session (R169, R190). While time
passes `arrivals` release events are delivered and REL takes up to `relSteps` atomic steps, so that the next input may
fall between any two of them (R147, R172); a restart ends a session that still lives, after as many (R180, R206). -/
inductive Input where
  | offer (o : Offer)
  | events (arrivals relSteps : Nat)
  | restart (arrivals relSteps : Nat)
  deriving DecidableEq, Repr

/-! The machine. -/

/-- The whole state. INVENTORY.md lists each field with its rule and reset value. -/
structure State where
  /-- Mirror of port A (R21). -/
  data       : Byte
  /-- Mirror of port B (R22). -/
  ctl        : Byte
  /-- Status (R29). -/
  run        : RunState
  /-- Sequencer position (R30). -/
  seqPc      : SeqPc
  /-- Fatal fault recorded (R31). -/
  cause      : Cause
  /-- Status of the last completed command (R31). -/
  lastSt     : BitVec 4
  /-- Attach found port A not all-output (R32). -/
  freshA     : Bool
  /-- Attach found port B not all-output (R32). -/
  freshB     : Bool
  /-- The image LOAD_PROGRAM has open (R35, R49). -/
  handle     : Option ImageId
  /-- Release events delivered and not begun (R35). -/
  relPending : Nat
  /-- REL's position in the event it is handling (R57, R146). -/
  rel        : Option RelPos
  /-- The host's InteractionMode (R36). -/
  imode      : IMode
  /-- The control loop (R130). -/
  loop       : LoopState
  /-- Inputs waiting, first the next to be taken (R35, R131). -/
  inputs     : List Input
  /-- Last response on the command port (R67). -/
  resp       : Option Resp
  /-- Last status rendered (R148). -/
  status     : Option StatusTuple
  /-- The observer's record, oldest first (R55, R179). -/
  trace      : List Event
  /-- The peripheral (R41). -/
  periph     : Periph
  /-- The images (R47). -/
  images     : Images
  /-- The environment's answers to come (R44, R50, R57). -/
  env        : Env
  /-- Parameters (R8). -/
  cfg        : Params
  /-- Count of free values taken (the model's own). -/
  free       : Nat
  deriving DecidableEq, Repr

/-- Why the machine stops. Each is a stuck state of the spec, never a final state of a good run but for
`sessionTerminated`, and each is safe: the model stops where the spec gives no successor. -/
inductive Fault where
  /-- Raised by `exec` for a command or key offered in UNATTACHED, FAULTED or TERMINATED: not taken, `stuck` (U19 of
  93_implementation_defined, D33; R29, R37, R169). Safe. -/
  | notTaken (r : RunState)
  /-- Raised by `exec` for a release event in UNATTACHED, FAULTED or TERMINATED: not handled, `stuck` (R146, D33, U5).
  Safe. -/
  | eventNotHandled (r : RunState)
  /-- Raised by `step` in FAULTED when the next input is not a restart: terminal (R169, U5). Safe. -/
  | sessionFaulted
  /-- Raised by `step` in TERMINATED when the next input is not a restart: terminal (R29, U23). Safe. -/
  | sessionTerminated
  deriving DecidableEq, Repr

/-- Why `exec` has no meaning for an instruction. -/
inductive Refusal where
  /-- Raised by `exec` for an instruction that has no meaning yet. Safe. -/
  | notModelled (mnemonic : String)
  deriving DecidableEq, Repr

/-- The machine right after reset, that is, after attach on a peripheral that was not all-output (cold, cold): the
values of R198. The image contents are parameters (R47), empty here; the environment's lists are empty. -/
def State.reset : State where
  data       := Config.defData
  ctl        := Config.defCtl
  run        := .idle
  seqPc      := .empty
  cause      := .none
  lastSt     := 0#4
  freshA     := true
  freshB     := true
  handle     := none
  relPending := 0
  rel        := none
  imode      := .control
  loop       := .running
  inputs     := []
  resp       := none
  status     := none
  trace      := []
  periph     := ⟨Config.dirAllOutput, Config.dirAllOutput, Config.defData, Config.defCtl⟩
  images     := ⟨[], [], []⟩
  env        := ⟨[], [], []⟩
  cfg        := .decided
  free       := 0

end Sys2Proof.Machine
end

