-- ==== Sys2Proof/Machine/Flags.lean ====
section
/-! DEFINITION. FPB has no status flags (rule R33). This file holds what its one control register means: the logical
fields of `ctl` (rules R22 to R27, R64), the mode encoder (rules R100 to R105) and the fault codes (rule R167). -/

namespace Sys2Proof.Machine

/-! The mode encoder (41_mode_encoder). -/

/-- `LOAD`, WAIT_N 0, CLEAR_N 0; `PAUSE` 0, 1; `RESET` 1, 0; `RUN` 1, 1: the code in place in the port B byte (R101). -/
def Mode.code : Mode → Byte
  | .load  => Config.mLoad
  | .pause => Config.mPause
  | .reset => Config.mReset
  | .run   => Config.mRun

/-- The mode of any byte (R102). -/
def modeOf (b : Byte) : Mode :=
  if b &&& Config.maskMode = Config.mLoad then .load
  else if b &&& Config.maskMode = Config.mPause then .pause
  else if b &&& Config.maskMode = Config.mReset then .reset
  else .run

/-- The five-character label (R105). -/
def Mode.label : Mode → String
  | .load  => Config.labelLoad
  | .reset => Config.labelReset
  | .pause => Config.labelPause
  | .run   => Config.labelRun

/-! Encode and decode of PB8 (R64). -/

/-- `dec_mode`: the mode code in place. -/
def decMode (b : Byte) : Byte := b &&& Config.maskMode
/-- `dec_mp`: active-high. -/
def decMp (b : Byte) : Bool := b.getLsbD Config.bitMp
/-- `dec_ef4`: logical sense, true when the wire bit is 0. -/
def decEf4 (b : Byte) : Bool := !b.getLsbD Config.bitEf4N
/-- `dec_stb`: logical sense, true when the wire bit is 0. -/
def decStb (b : Byte) : Bool := !b.getLsbD Config.bitStbN
/-- `dec_hi`: bits 7:5. -/
def decHi (b : Byte) : BitVec 3 := b.extractLsb' 5 3

/-- `enc_ctl(h, m, e, s, p)`. -/
def encCtl (h : BitVec 3) (m : Byte) (e s p : Bool) : Byte :=
  (h ++ 0#5 : BitVec (3 + 5)) ||| m ||| (boolByte (!e) <<< Config.bitEf4N) ||| (boolByte (!s) <<< Config.bitStbN)
    ||| boolByte p

/-! Status codes (R167). -/

/-- OK. -/
def stOk : BitVec 4 := 0
/-- InvalidArgument. -/
def stInvalidArgument : BitVec 4 := 2
/-- IllegalCommand. -/
def stIllegalCommand : BitVec 4 := 6

/-- The code of a fatal fault; 0 when none (R31, R167). -/
def Cause.code : Cause → BitVec 4
  | .none => 0
  | .configurationError _ _ => 1
  | .imageNotFound _ => 3
  | .imageReadError _ => 4
  | .portIOError _ _ => 5

end Sys2Proof.Machine
end

