-- ==== Sys2Proof/Machine/Operands.lean ====
section
/-! DEFINITION. Operands: the field masks and bits each setter passes to the masked read-modify-write (rules R84, R86,
R88, R90), which mode arguments are legal (rule R84), the nibble of a hexadecimal key (rule R135), and the port, image
and line an operation names. -/

namespace Sys2Proof.Machine

/-- The four legal mode arguments (R84). -/
def isModeCode (m : Byte) : Bool :=
  m == Config.mLoad || m == Config.mPause || m == Config.mReset || m == Config.mRun

/-- The wire bits of `mem_protect = v`: active-high (R86). -/
def mpBits (v : Bool) : Byte := if v then 0x01#8 else 0x00#8
/-- The wire bits of `ef4_n = v`: inverted (R88). -/
def ef4Bits (v : Bool) : Byte := if v then 0x00#8 else 0x04#8
/-- The wire bits of `stb_n = v`: inverted (R90). -/
def stbBits (v : Bool) : Byte := if v then 0x00#8 else 0x02#8

/-- The nibble shift of KEY_HEX: `((data << 4) | n) & 0xFF`, exact in 8 bits (R135). -/
def shiftInNibble (data : Byte) (n : BitVec 4) : Byte := (data <<< 4) ||| n.zeroExtend 8

/-- The port-B mask of a line. A release writes this whole mask as the bits: deasserted is wire 1 (R146). -/
def Line.mask : Line → Byte
  | .ef4 => Config.maskEf4
  | .stb => Config.maskStb

/-- The direction register of a port (R41). -/
def Port.dirReg : Port → PortReg
  | .a => .dirA
  | .b => .dirB
/-- The value register of a port (R41). -/
def Port.valueReg : Port → PortReg
  | .a => .portA
  | .b => .portB
/-- `DEF_A`, `DEF_B` of attach (R191). -/
def Port.default : Port → Byte
  | .a => Config.defData
  | .b => Config.defCtl

/-- The fault a failed access of a register raises: ConfigurationError for a direction register (R161), PortIOError for
a value register (R165). -/
def accessFault : PortReg → Dir → Cause
  | .dirA, d => .configurationError .a d
  | .dirB, d => .configurationError .b d
  | .portA, d => .portIOError .a d
  | .portB, d => .portIOError .b d

/-- The bytes of an image (R47). -/
def Images.bytes (im : Images) : ImageId → List Byte
  | .bootstrap => im.bootstrap
  | .monitor => im.monitor
  | .bios => im.bios

/-- The content of a register (R43). -/
def Periph.get (p : Periph) : PortReg → Byte
  | .dirA => p.dirA
  | .dirB => p.dirB
  | .portA => p.portA
  | .portB => p.portB

/-- One register replaced (R45, R53). -/
def Periph.set (p : Periph) (r : PortReg) (v : Byte) : Periph :=
  match r with
  | .dirA => { p with dirA := v }
  | .dirB => { p with dirB := v }
  | .portA => { p with portA := v }
  | .portB => { p with portB := v }

/-- What the eight pins of a port show: the value register, when the port is configured all-output (R45). The spec does
not say what they show otherwise. -/
def Periph.pins (p : Periph) (x : Port) : Option Byte :=
  if p.get x.dirReg = Config.dirAllOutput then some (p.get x.valueReg) else none

end Sys2Proof.Machine
end

