-- ==== Sys2Proof/Machine/Ops.lean ====
section
/-! DEFINITION. The shared operations: fault entry and the new session that alone leaves it (rules R168, R169, R190), one
port access (rules R44, R45), the masked read-modify-write (rule R80) in its atomic and its split form (rule R57), the
release agent (rule R146), the interleaving of the two agents (rules R57, R172), and the sequencer that runs a command's
atomic actions in order (rule R110). An access takes what follows it as its last argument but one, so that nothing after
a failed access is run. -/

namespace Sys2Proof.Machine

/-- What the meaning of an instruction answers. -/
abbrev Result := Host.Outcome State Fault Refusal

/-! Fault entry, and the only way out. -/

/-- Entry of a fatal fault (R168): `cause` and FAULTED; the process ends without success; a command in progress answers
`Resp(code, 0x00)`; `seqPc` and everything else keep their values. There is no vector, nothing is saved. -/
def raise (c : Cause) (s : State) : State :=
  { s with
    cause := c
    run := .faulted
    loop := .exitedFailure
    resp := if s.run = .busy then some ⟨c.code, 0x00#8⟩ else s.resp
    trace := if s.run = .busy then s.trace ++ [.resp ⟨c.code, 0x00#8⟩] else s.trace }

/-- A new process, before attach (R169, R190, R200): no session, every register of FPB unspecified (R37, R198), nothing
pending; the peripheral keeps its registers (R180). -/
def newSession (s : State) : State :=
  { s with
    data := Config.unspecByte s.free
    ctl := Config.unspecByte (s.free + 1)
    run := .unattached
    seqPc := .empty
    cause := .none
    lastSt := Config.unspecNibble s.free
    freshA := Config.unspecBool s.free
    freshB := Config.unspecBool (s.free + 1)
    handle := none
    relPending := 0
    rel := none
    imode := .control
    loop := .running
    resp := none
    status := none
    free := s.free + 2 }

/-! Updates of one field. -/

/-- Replace `data`. -/
def State.setData (v : Byte) (s : State) : State := { s with data := v }
/-- Replace `ctl` (R80 step 4). -/
def State.setCtl (v : Byte) (s : State) : State := { s with ctl := v }
/-- Replace `run`. -/
def State.setRun (r : RunState) (s : State) : State := { s with run := r }
/-- Replace `seq_pc`. -/
def State.setSeqPc (p : SeqPc) (s : State) : State := { s with seqPc := p }
/-- Replace the image handle. -/
def State.setHandle (h : Option ImageId) (s : State) : State := { s with handle := h }
/-- Replace the count of release events pending. -/
def State.setRelPending (n : Nat) (s : State) : State := { s with relPending := n }
/-- Replace REL's position. -/
def State.setRel (p : Option RelPos) (s : State) : State := { s with rel := p }
/-- Replace the interleavings still to come. -/
def State.setSched (l : List Slot) (s : State) : State := { s with env := { s.env with sched := l } }

/-- Append to the observer's record. -/
def State.log (e : Event) (s : State) : State := { s with trace := s.trace ++ [e] }

/-- Replace one register of the peripheral. -/
def State.setReg (r : PortReg) (v : Byte) (s : State) : State := { s with periph := s.periph.set r v }

/-- PIO's answer to the access about to be made (R44: "an input from PIO"). -/
def State.pioReply (s : State) : PioReply := s.env.pio.headD .ok
/-- That answer used up. -/
def State.popPio (s : State) : State := { s with env := { s.env with pio := s.env.pio.tail } }
/-- IMG's answer to the open or read about to be made (R50). -/
def State.imgReply (s : State) : ImgReply := s.env.img.headD .ok
/-- That answer used up. -/
def State.popImg (s : State) : State := { s with env := { s.env with img := s.env.img.tail } }

/-! Accesses. -/

/-- `MemRead(r, 1)` by agent `ag`, then `k` on the byte (R44). A failed read changes no register and raises. -/
def memRead (ag : Agent) (r : PortReg) (k : Byte → State → State) (s : State) : State :=
  match s.pioReply with
  | .ok => k (s.periph.get r) (s.popPio.log (.read ag r (s.periph.get r)))
  | .fail _ => raise (accessFault r .read) (s.popPio.log (.readFail ag r))

/-- `MemWrite(r, 1, v)` by agent `ag`, then `k` (R45). A failed write leaves the register at any value and raises. -/
def memWrite (ag : Agent) (r : PortReg) (v : Byte) (k : State → State) (s : State) : State :=
  match s.pioReply with
  | .ok => k ((s.popPio.setReg r v).log (.write ag r v))
  | .fail left => raise (accessFault r .write) ((s.popPio.setReg r left).log (.writeFail ag r v))

/-! The masked read-modify-write. -/

/-- R80 step 1: the old byte, from the mirror or from the port. -/
def readOld (ag : Agent) (k : Byte → State → State) (s : State) : State :=
  match s.cfg.rmwSource with
  | .mirror => k s.ctl s
  | .port => memRead ag .portB k s

/-- `SetField(mask, bits)` in one atomic step (R80, R57). -/
def setFieldAtomic (ag : Agent) (mask bits : Byte) : State → State :=
  readOld ag fun old => memWrite ag .portB (maskedByte old mask bits) (State.setCtl (maskedByte old mask bits))

/-- The body of SET_DATA: a full-byte write, then the mirror (R82). One atomic step under either value of `RMW_ATOMIC`:
R57 splits the setters of R80 and says nothing of this one (DESIGN CHOICE, log entry 34). -/
def writeData (b : Byte) : State → State := memWrite .seq .portA b (State.setData b)

/-! The release agent. -/

/-- REL goes on to the next line after a setter that did not fault: `ef4_n`, then `stb_n`, then done (R146). -/
def relNext (l : Line) (s : State) : State :=
  if s.run = .faulted then s
  else match l with
    | .ef4 => s.setRel (some ⟨.stb, .start⟩)
    | .stb => s.setRel none

/-- One atomic step of REL at position `p`: a whole setter when setters are atomic, else one of its three parts
(R57, R146). Each setter writes 1 to the line's wire bit: deasserted. -/
def relAct (p : RelPos) (s : State) : State :=
  if s.cfg.rmwAtomic then relNext p.line (setFieldAtomic .rel p.line.mask p.line.mask s)
  else match p.stage with
    | .start => readOld .rel (fun old => State.setRel (some ⟨p.line, .haveOld old⟩)) s
    | .haveOld old =>
        memWrite .rel .portB (maskedByte old p.line.mask p.line.mask)
          (State.setRel (some ⟨p.line, .written (maskedByte old p.line.mask p.line.mask)⟩)) s
    | .written new => relNext p.line (s.setCtl new)

/-- One atomic step of REL: it goes on with the event it is handling, or begins the next one pending, and only while
`run` is IDLE or BUSY (R146, R178). With nothing to do it does nothing. -/
def relStep (s : State) : State :=
  if s.run = .idle ∨ s.run = .busy then
    match s.rel, s.relPending with
    | some p, _ => relAct p s
    | none, n + 1 => relAct ⟨.ef4, .start⟩ ((s.setRelPending n).setRel (some ⟨.ef4, .start⟩))
    | none, 0 => s
  else s

/-- `n` atomic steps of REL. -/
def relSteps : Nat → State → State
  | 0, s => s
  | n + 1, s => relSteps n (relStep s)

/-- REL runs until nothing is pending: an event is at most six atomic steps (R57). A kill between two of them is a
restart that carries the steps before it (R180, log entry 24). -/
def relDrain (s : State) : State := relSteps (6 * (s.relPending + 1)) s

/-! Interleaving. -/

/-- Go on only while the command in progress is still in progress: a fault of either agent, or a kill, ends it
(R110 item 4, R168). -/
def whileBusy (f : State → State) (s : State) : State := if s.run = .busy then f s else s

/-- Go on only while FPB is idle: a fault of either agent, or a kill, has ended the session otherwise. -/
def whileIdle (f : State → State) (s : State) : State := if s.run = .idle then f s else s

/-- Go on only while the session lives (R178). -/
def whileLive (f : State → State) (s : State) : State := if s.run = .idle ∨ s.run = .busy then f s else s

/-- `arrivals` release events are delivered and REL takes up to `steps` atomic steps (R57, R146). -/
def deliver (arrivals steps : Nat) (s : State) : State := relSteps steps (s.setRelPending (s.relPending + arrivals))

/-- One point between two atomic steps of SEQ, inside a command or in IDLE between two commands of one key: what the
environment lets happen there (R57, R147, R172), and last of all a kill, so that one may fall after any number of REL's
steps (R180). -/
def interleave (s : State) : State :=
  match s.env.sched with
  | [] => s
  | slot :: rest =>
      let t := deliver slot.arrivals slot.relSteps (s.setSched rest)
      if slot.kill then whileLive newSession t else t

/-- `SetField` by SEQ in three steps, the other agent free to step between any two (R57, `RMW_ATOMIC = false`). -/
def setFieldSplit (mask bits : Byte) : State → State :=
  readOld .seq fun old s =>
    whileBusy (memWrite .seq .portB (maskedByte old mask bits) fun s =>
      whileBusy (State.setCtl (maskedByte old mask bits)) (interleave s)) (interleave s)

/-- `SetField` by SEQ under the machine's `RMW_ATOMIC` (R57, R80). -/
def setField (mask bits : Byte) (s : State) : State :=
  if s.cfg.rmwAtomic then setFieldAtomic .seq mask bits s else setFieldSplit mask bits s

/-! The sequencer. -/

/-- The atomic actions a command is made of. -/
inductive Action where
  /-- `SetField(mask, bits)` (R80). -/
  | setField (mask bits : Byte)
  /-- SET_DATA without `Resp` (R82). -/
  | setData (b : Byte)
  /-- The hold of a pulse begins: SEQ does nothing for at least `T_PULSE` (R111, R176). -/
  | holdBegin
  /-- The hold ends. -/
  | holdEnd
  /-- `ImgOpen(k)` (R49). -/
  | imgOpen (k : ImageId)
  /-- `ImgNext(h)` on image `k`, whose answer, if it does not fail, is this byte or EOF (R50). -/
  | imgNext (k : ImageId) (x : Option Byte)
  deriving DecidableEq, Repr

/-- An action with the position `seq_pc` has while it runs (R30). -/
structure Micro where
  pos : SeqPc
  act : Action
  deriving DecidableEq, Repr

/-- `ImgOpen(k)` (R49, R163). -/
def openImage (k : ImageId) (s : State) : State :=
  match s.imgReply with
  | .ok => (s.popImg.log (.imgOpen k)).setHandle (some k)
  | .fail => raise (.imageNotFound k) (s.popImg.log (.imgOpenFail k))

/-- `ImgNext(h)` (R50, R164); at the end of the stream the handle is given up. -/
def nextImageByte (k : ImageId) (x : Option Byte) (s : State) : State :=
  match s.imgReply with
  | .fail => raise (.imageReadError k) (s.popImg.log (.imgReadFail k))
  | .ok => match x with
    | some b => s.popImg.log (.imgByte k b)
    | none => (s.popImg.log (.imgEof k)).setHandle none

/-- One atomic action of SEQ. -/
def Action.perform : Action → State → State
  | .setField mask bits => Machine.setField mask bits
  | .setData b => writeData b
  | .holdBegin => State.log (.holdBegin Config.tPulseMs)
  | .holdEnd => State.log .holdEnd
  | .imgOpen k => openImage k
  | .imgNext k x => nextImageByte k x

/-- SEQ comes to an action: `seq_pc` takes its position, REL may step there, then the action is performed. -/
def seqStep (s : State) (m : Micro) : State :=
  whileBusy (fun s => whileBusy m.act.perform (interleave (s.setSeqPc m.pos))) s

/-- The actions of a command in the order written (R110 item 1), and a last point before its response. There `seq_pc`
keeps the position of the last action, a composite's last step done (R30 numbers nothing after it: DESIGN CHOICE, log
entry 35). -/
def seqRun (ms : List Micro) (s : State) : State := whileBusy interleave (ms.foldl seqStep s)

/-- `Resp(st, val)`: the command ends, `run` is IDLE again, `seq_pc` empty, `last_st` its status (R30, R31, R65, R67). -/
def respond (st : BitVec 4) (val : Byte) (s : State) : State :=
  { s with
    run := .idle
    seqPc := .empty
    lastSt := st
    resp := some ⟨st, val⟩
    trace := s.trace ++ [.resp ⟨st, val⟩] }

/-- A command from acceptance (`run <- BUSY`) to `Resp(0, val)` (R65); without the response if it did not end well. -/
def command (ms : List Micro) (val : State → Byte) (s : State) : State :=
  whileBusy (fun t => respond stOk (val t) t) (seqRun ms (s.setRun .busy))

/-- The value of a command that returns none (R67). -/
def noValue : State → Byte := fun _ => 0x00#8

/-- A command or a symbol is taken only in IDLE (R29, R65, R130). While BUSY it is not taken and the caller waits; in the
other three states it is not taken and the machine is stuck (U19). -/
def whenIdle (k : State → State) (s : State) : Result :=
  match s.run with
  | .idle => .next (k s)
  | .busy => .next s
  | .unattached | .faulted | .terminated => .fault (.notTaken s.run)

/-- A getter: no access; the value is read from the mirror (D6). -/
def getterCommand (val : State → Byte) : State → State := command [] val

/-- GET_DATA as a command (R81). -/
def getDataCommand : State → State := getterCommand fun s => s.data
/-- GET_MODE as a command (R83). -/
def getModeCommand : State → State := getterCommand fun s => decMode s.ctl
/-- GET_MP as a command (R85). -/
def getMpCommand : State → State := getterCommand fun s => boolByte (decMp s.ctl)
/-- GET_EF4 as a command: the logical value (R87). -/
def getEf4Command : State → State := getterCommand fun s => boolByte (decEf4 s.ctl)
/-- GET_STB as a command: the logical value (R89). -/
def getStbCommand : State → State := getterCommand fun s => boolByte (decStb s.ctl)

/-! The control loop's output. -/

/-- The status is rendered: an output like a response (R148, R179). -/
def State.setStatus (v : StatusTuple) (s : State) : State :=
  { s with status := some v, trace := s.trace ++ [.status v] }

/-- The value of the response just given (R67). -/
def State.answer (s : State) : Byte := match s.resp with
  | some r => r.val
  | none => 0x00#8

/-- The host goes on with a symbol, after a command of its own or before the first: a point in IDLE, where REL may step
and its fault answers no command (R168), then `f`, if FPB is idle still. -/
def goingOn (f : State → State) : State → State := whileIdle fun s => whileIdle f (interleave s)

/-- Issue a getter and go on with the value it answers. -/
def asking (get : State → State) (k : Byte → State → State) (s : State) : State :=
  goingOn (fun t => k t.answer t) (get s)

/-- Render status after a symbol: it issues GET_MODE, GET_MP and GET_DATA, each a command like any other, and shows what
they answer (R148, R31, R67). Not after the process has ended. -/
def renderStatus : State → State :=
  goingOn <| asking getModeCommand fun mode => asking getMpCommand fun mp => asking getDataCommand fun data s =>
    s.setStatus ⟨s.imode, (modeOf mode).label, mp.getLsbD 0, data⟩

/-- One iteration of the loop on a symbol that is not quit: what it does, then the status (R130). -/
def symbol (k : State → State) : State → Result := whenIdle fun s => renderStatus (k s)

end Sys2Proof.Machine
end

