-- ==== Sys2Proof/Machine/Attach.lean ====
section
/-! DEFINITION. Reset of FPB: attach-or-initialize (rules R190 to R199). It is no operation of the table; SEQ runs it
before anything else, with REL not running. -/

namespace Sys2Proof.Machine

/-- The mirror of a port and its outcome (R191 steps 5 and 7). -/
def adopt (x : Port) (v : Byte) (fresh : Bool) (s : State) : State :=
  match x with
  | .a => { s with data := v, freshA := fresh }
  | .b => { s with ctl := v, freshB := fresh }

/-- A point between two accesses of attach, then `k`: the process may be killed there (R180), and REL does not run
(R190). -/
def attachPoint (k : State → State) (s : State) : State :=
  match s.env.sched with
  | [] => k s
  | slot :: rest => if slot.kill then newSession (s.setSched rest) else k (s.setSched rest)

/-- R191 steps 1 to 7 for one port, then `k`: adopt the byte of a port that reads all-output, else initialise it. -/
def attachPort (x : Port) (k : State → State) : State → State :=
  memRead .seq x.dirReg fun d => attachPoint <|
    if d = Config.dirAllOutput then
      memRead .seq x.valueReg fun v s => k (adopt x v false s)
    else
      memWrite .seq x.dirReg Config.dirAllOutput <| attachPoint <|
        memWrite .seq x.valueReg x.default fun s => k (adopt x x.default true s)

/-- R191 step 8, and the start of the control loop (R149). -/
def startSession (s : State) : State :=
  { s with
    run := .idle, cause := .none, lastSt := stOk, seqPc := .empty,
    imode := .control, loop := .running, handle := none, relPending := 0, rel := none }

/-- Port A, then port B, then the session starts (R191, `ATTACH_ORDER`). A failed access ends it there (R197). -/
def attach : State → State := attachPort .a (attachPoint (attachPort .b startSession))

end Sys2Proof.Machine
end

