-- ==== Sys2Proof/Machine/RegisterStore.lean ====
section
/-! DEFINITION. The ten RegisterStore operations (rules R81 to R90) and the reserved command words (rules R73, R166). -/

namespace Sys2Proof.Machine

/-- A primitive setter: one `SetField`, `seq_pc` empty (R30, R80). -/
def setterCommand (mask bits : Byte) : State → State := command [⟨.empty, .setField mask bits⟩] noValue

/-- SET_DATA (R82). -/
def setDataCommand (b : Byte) : State → State := command [⟨.empty, .setData b⟩] noValue

/-- SET_MODE: an argument that is no mode is refused before any access, `last_st` 2 (R84, R162, R172). -/
def setModeCommand (m : Byte) (s : State) : State :=
  if isModeCode m then setterCommand Config.maskMode m s else respond stInvalidArgument 0x00#8 s

/-- SET_MP (R86). -/
def setMpCommand (v : Bool) : State → State := setterCommand Config.maskMp (mpBits v)
/-- SET_EF4 (R88). -/
def setEf4Command (v : Bool) : State → State := setterCommand Config.maskEf4 (ef4Bits v)
/-- SET_STB (R90). -/
def setStbCommand (v : Bool) : State → State := setterCommand Config.maskStb (stbBits v)

/-- GET_DATA (R81). -/
def execGetData (s : State) : Result := whenIdle getDataCommand s
/-- SET_DATA b (R82). -/
def execSetData (b : Byte) (s : State) : Result := whenIdle (setDataCommand b) s
/-- GET_MODE (R83). -/
def execGetMode (s : State) : Result := whenIdle getModeCommand s
/-- SET_MODE m (R84). -/
def execSetMode (m : Byte) (s : State) : Result := whenIdle (setModeCommand m) s
/-- GET_MP (R85). -/
def execGetMp (s : State) : Result := whenIdle getMpCommand s
/-- SET_MP v (R86). -/
def execSetMp (v : Bool) (s : State) : Result := whenIdle (setMpCommand v) s
/-- GET_EF4 (R87). -/
def execGetEf4 (s : State) : Result := whenIdle getEf4Command s
/-- SET_EF4 v (R88). -/
def execSetEf4 (v : Bool) (s : State) : Result := whenIdle (setEf4Command v) s
/-- GET_STB (R89). -/
def execGetStb (s : State) : Result := whenIdle getStbCommand s
/-- SET_STB v (R90). -/
def execSetStb (v : Bool) (s : State) : Result := whenIdle (setStbCommand v) s

/-- A reserved word: `Resp(6, 0x00)`, nothing else (R73, R166, R170). -/
def execReservedCmd (_ : CmdWord) (s : State) : Result := whenIdle (respond stIllegalCommand 0x00#8) s

end Sys2Proof.Machine
end

