-- ==== Sys2Proof/Machine/Bootstrap.lean ====
section
/-! DEFINITION. The bootstrap sequencer (42_bootstrap_sequencer): each composite as the list of its atomic actions with
the position `seq_pc` has at each (rules R30, R110 to R114). `outer` is the frames around a composite, `k` the image
count of the loop it stands in. -/

namespace Sys2Proof.Machine

/-- PULSE, steps 1 to 3 (R111). -/
def pulseMicros (outer : List Frame) (k : Nat) : List Micro :=
  let at_ (n : Nat) : SeqPc := ⟨outer ++ [⟨.pulse, n⟩], k⟩
  [ ⟨at_ 1, .setField Config.maskEf4 (ef4Bits true)⟩,
    ⟨at_ 2, .holdBegin⟩,
    ⟨at_ 2, .holdEnd⟩,
    ⟨at_ 3, .setField Config.maskEf4 (ef4Bits false)⟩ ]

/-- LOAD_PROGRAM, steps 2 to 4 repeated for the bytes still in the stream, `k` of them consumed (R112). -/
def loadLoopMicros (outer : List Frame) (img : ImageId) : Nat → List Byte → List Micro
  | k, [] => [⟨⟨outer ++ [⟨.loadProgram, 2⟩], k⟩, .imgNext img none⟩]
  | k, x :: xs =>
      ⟨⟨outer ++ [⟨.loadProgram, 2⟩], k⟩, .imgNext img (some x)⟩ ::
      ⟨⟨outer ++ [⟨.loadProgram, 3⟩], k⟩, .setData x⟩ ::
      (pulseMicros (outer ++ [⟨.loadProgram, 4⟩]) k ++ loadLoopMicros outer img (k + 1) xs)

/-- LOAD_PROGRAM of image `img` whose bytes are `bytes`, step 1 on (R112). -/
def loadProgramMicros (outer : List Frame) (img : ImageId) (bytes : List Byte) : List Micro :=
  ⟨⟨outer ++ [⟨.loadProgram, 1⟩], 0⟩, .imgOpen img⟩ :: loadLoopMicros outer img 0 bytes

/-- The step kinds of the two fixed sequences. -/
inductive FixedStep where
  | mode (m : Mode)
  | mp (v : Bool)
  | data (b : Byte)
  | pulse
  | load (img : ImageId)
  deriving DecidableEq, Repr

/-- The actions of step `n` of composite `op`. -/
def FixedStep.micros (op : CompositeOp) (im : Images) (n : Nat) : FixedStep → List Micro
  | .mode m => [⟨⟨[⟨op, n⟩], 0⟩, .setField Config.maskMode m.code⟩]
  | .mp v => [⟨⟨[⟨op, n⟩], 0⟩, .setField Config.maskMp (mpBits v)⟩]
  | .data b => [⟨⟨[⟨op, n⟩], 0⟩, .setData b⟩]
  | .pulse => pulseMicros [⟨op, n⟩] 0
  | .load img => loadProgramMicros [⟨op, n⟩] img (im.bytes img)

/-- The actions of a fixed sequence whose first step has number `n`. -/
def fixedMicros (op : CompositeOp) (im : Images) : Nat → List FixedStep → List Micro
  | _, [] => []
  | n, st :: sts => st.micros op im n ++ fixedMicros op im (n + 1) sts

/-- The nineteen steps of LOAD_MONITOR (R113). -/
def loadMonitorSteps : List FixedStep :=
  [ .mode .reset, .mode .load, .mp false, .load .bootstrap, .mode .reset, .mode .run,
    .data Config.lmCmd1, .pulse, .data Config.lmFollow, .pulse, .load .monitor, .mode .reset, .mode .run,
    .data Config.lmCmd2, .pulse, .data Config.lmFollow, .pulse, .load .bios, .mode .reset ]

/-- The ten steps of RUN_MONITOR (R114). -/
def runMonitorSteps : List FixedStep :=
  [ .mode .reset, .mode .load, .data Config.rmB0, .pulse, .data Config.rmB1, .pulse, .data Config.rmB2, .pulse,
    .mode .reset, .mode .run ]

/-- PULSE as a command (R111). -/
def pulseCommand : State → State := command (pulseMicros [] 0) noValue

/-- LOAD_PROGRAM as a command (R112). -/
def loadProgramCommand (img : ImageId) (s : State) : State :=
  command (loadProgramMicros [] img (s.images.bytes img)) noValue s

/-- LOAD_MONITOR as a command (R113). -/
def loadMonitorCommand (s : State) : State := command (fixedMicros .loadMonitor s.images 1 loadMonitorSteps) noValue s

/-- RUN_MONITOR as a command (R114). -/
def runMonitorCommand (s : State) : State := command (fixedMicros .runMonitor s.images 1 runMonitorSteps) noValue s

/-- PULSE (R111). -/
def execPulse (s : State) : Result := whenIdle pulseCommand s
/-- LOAD_PROGRAM 0 (R112). -/
def execLoadProgram0 (s : State) : Result := whenIdle (loadProgramCommand .bootstrap) s
/-- LOAD_PROGRAM 1 (R112). -/
def execLoadProgram1 (s : State) : Result := whenIdle (loadProgramCommand .monitor) s
/-- LOAD_PROGRAM 2 (R112). -/
def execLoadProgram2 (s : State) : Result := whenIdle (loadProgramCommand .bios) s
/-- LOAD_MONITOR (R113). -/
def execLoadMonitor (s : State) : Result := whenIdle loadMonitorCommand s
/-- RUN_MONITOR (R114). -/
def execRunMonitor (s : State) : Result := whenIdle runMonitorCommand s

end Sys2Proof.Machine
end

