-- ==== Sys2Proof/Machine/Keys.lean ====
section
/-! DEFINITION. The host layer's key symbols (rules R130 to R145) and the release event (rule R146). A key invokes a
command and waits for its response; then the loop renders status (rule R130). -/

namespace Sys2Proof.Machine

/-- KEY_IRQ: SET_EF4 true (R134). -/
def irqKey : State → Result := symbol (setEf4Command true)

/-- KEY_HEX: SET_DATA of the mirror's byte, which GET_DATA answers, with the nibble shifted in (R135, D32). -/
def hexKey (n : BitVec 4) : State → Result :=
  symbol <| asking getDataCommand fun data => setDataCommand (shiftInNibble data n)

/-- A mode key: SET_MODE of the mode's code (R136 to R139). -/
def modeKey (m : Mode) : State → Result := symbol (setModeCommand m.code)

/-- QUIT: no command, no write, no status; the loop and the session end with success (R132). -/
def execQuit (s : State) : Result := whenIdle (fun s => { s with run := .terminated, loop := .exitedSuccess }) s

/-- TOGGLE: the other interaction mode (R133). -/
def execToggle (s : State) : Result :=
  symbol (fun s => { s with imode := match s.imode with
                                     | .control => .keyboard
                                     | .keyboard => .control }) s

/-- KEY_IRQ by `i` (R134). -/
def execKeyIrqI (s : State) : Result := irqKey s
/-- KEY_IRQ by newline (R134). -/
def execKeyIrqNewline (s : State) : Result := irqKey s
/-- KEY_IRQ by space (R134). -/
def execKeyIrqSpace (s : State) : Result := irqKey s

/-- KEY_HEX, nibble 0 (R135). -/
def execKeyHex0 (s : State) : Result := hexKey 0x0#4 s
/-- KEY_HEX, nibble 1 (R135). -/
def execKeyHex1 (s : State) : Result := hexKey 0x1#4 s
/-- KEY_HEX, nibble 2 (R135). -/
def execKeyHex2 (s : State) : Result := hexKey 0x2#4 s
/-- KEY_HEX, nibble 3 (R135). -/
def execKeyHex3 (s : State) : Result := hexKey 0x3#4 s
/-- KEY_HEX, nibble 4 (R135). -/
def execKeyHex4 (s : State) : Result := hexKey 0x4#4 s
/-- KEY_HEX, nibble 5 (R135). -/
def execKeyHex5 (s : State) : Result := hexKey 0x5#4 s
/-- KEY_HEX, nibble 6 (R135). -/
def execKeyHex6 (s : State) : Result := hexKey 0x6#4 s
/-- KEY_HEX, nibble 7 (R135). -/
def execKeyHex7 (s : State) : Result := hexKey 0x7#4 s
/-- KEY_HEX, nibble 8 (R135). -/
def execKeyHex8 (s : State) : Result := hexKey 0x8#4 s
/-- KEY_HEX, nibble 9 (R135). -/
def execKeyHex9 (s : State) : Result := hexKey 0x9#4 s
/-- KEY_HEX, nibble 10 (R135). -/
def execKeyHexA (s : State) : Result := hexKey 0xA#4 s
/-- KEY_HEX, nibble 11 (R135). -/
def execKeyHexB (s : State) : Result := hexKey 0xB#4 s
/-- KEY_HEX, nibble 12 (R135). -/
def execKeyHexC (s : State) : Result := hexKey 0xC#4 s
/-- KEY_HEX, nibble 13 (R135). -/
def execKeyHexD (s : State) : Result := hexKey 0xD#4 s
/-- KEY_HEX, nibble 14 (R135). -/
def execKeyHexE (s : State) : Result := hexKey 0xE#4 s
/-- KEY_HEX, nibble 15 (R135). -/
def execKeyHexF (s : State) : Result := hexKey 0xF#4 s

/-- KEY_L: LOAD (R136). -/
def execKeyL (s : State) : Result := modeKey .load s
/-- KEY_R: RESET (R137). -/
def execKeyR (s : State) : Result := modeKey .reset s
/-- KEY_G: RUN (R138). -/
def execKeyG (s : State) : Result := modeKey .run s
/-- KEY_W: PAUSE (R139). -/
def execKeyW (s : State) : Result := modeKey .pause s
/-- KEY_P: SET_MP of the negated mirror bit, which GET_MP answers (R140, D32). -/
def execKeyP (s : State) : Result := symbol (asking getMpCommand fun mp => setMpCommand (!mp.getLsbD 0)) s
/-- KEY_Z: LOAD_MONITOR (R141). -/
def execKeyZ (s : State) : Result := symbol loadMonitorCommand s
/-- KEY_M: RUN_MONITOR (R142). -/
def execKeyM (s : State) : Result := symbol runMonitorCommand s
/-- KEY_NOP: nothing but the status (R143). -/
def execKeyNop (_ : Byte) (s : State) : Result := symbol id s

/-- KEY_CHAR: SET_DATA of the code, then SET_STB true if the first command ended well (R144). -/
def execKeyChar (c : Byte) (s : State) : Result :=
  symbol (fun s => goingOn (setStbCommand true) (setDataCommand c s)) s

/-- KEYBOARD no-op: nothing but the status (R145). -/
def execKeyboardNop (_ : Byte) (s : State) : Result := symbol id s

/-- RELEASE: the event is delivered and REL runs until nothing is pending, in IDLE and BUSY alone (R146). An event that
REL has not finished when the next input comes is `Input.events` (R147, log entry 22). -/
def execRelease (s : State) : Result :=
  if s.run = .idle ∨ s.run = .busy then .next (relDrain (s.setRelPending (s.relPending + 1)))
  else .fault (.eventNotHandled s.run)

end Sys2Proof.Machine
end

