-- ==== Sys2Proof/Machine/Dispatch.lean ====
section
/-! DEFINITION. From an instruction to its meaning: one arm per constructor of `Instr`. -/

namespace Sys2Proof.Machine

def exec (i : Instr) (s : State) : Host.Outcome State Fault Refusal :=
  match i with
  | .getData => Sys2Proof.Machine.execGetData s
  | .setData b => Sys2Proof.Machine.execSetData b s
  | .getMode => Sys2Proof.Machine.execGetMode s
  | .setMode m => Sys2Proof.Machine.execSetMode m s
  | .getMp => Sys2Proof.Machine.execGetMp s
  | .setMp v => Sys2Proof.Machine.execSetMp v s
  | .getEf4 => Sys2Proof.Machine.execGetEf4 s
  | .setEf4 v => Sys2Proof.Machine.execSetEf4 v s
  | .getStb => Sys2Proof.Machine.execGetStb s
  | .setStb v => Sys2Proof.Machine.execSetStb v s
  | .pulse => Sys2Proof.Machine.execPulse s
  | .loadProgram0 => Sys2Proof.Machine.execLoadProgram0 s
  | .loadProgram1 => Sys2Proof.Machine.execLoadProgram1 s
  | .loadProgram2 => Sys2Proof.Machine.execLoadProgram2 s
  | .loadMonitor => Sys2Proof.Machine.execLoadMonitor s
  | .runMonitor => Sys2Proof.Machine.execRunMonitor s
  | .reservedCmd w => Sys2Proof.Machine.execReservedCmd w s
  | .quit => Sys2Proof.Machine.execQuit s
  | .toggle => Sys2Proof.Machine.execToggle s
  | .keyIrqI => Sys2Proof.Machine.execKeyIrqI s
  | .keyIrqNewline => Sys2Proof.Machine.execKeyIrqNewline s
  | .keyIrqSpace => Sys2Proof.Machine.execKeyIrqSpace s
  | .keyHex0 => Sys2Proof.Machine.execKeyHex0 s
  | .keyHex1 => Sys2Proof.Machine.execKeyHex1 s
  | .keyHex2 => Sys2Proof.Machine.execKeyHex2 s
  | .keyHex3 => Sys2Proof.Machine.execKeyHex3 s
  | .keyHex4 => Sys2Proof.Machine.execKeyHex4 s
  | .keyHex5 => Sys2Proof.Machine.execKeyHex5 s
  | .keyHex6 => Sys2Proof.Machine.execKeyHex6 s
  | .keyHex7 => Sys2Proof.Machine.execKeyHex7 s
  | .keyHex8 => Sys2Proof.Machine.execKeyHex8 s
  | .keyHex9 => Sys2Proof.Machine.execKeyHex9 s
  | .keyHexA => Sys2Proof.Machine.execKeyHexA s
  | .keyHexB => Sys2Proof.Machine.execKeyHexB s
  | .keyHexC => Sys2Proof.Machine.execKeyHexC s
  | .keyHexD => Sys2Proof.Machine.execKeyHexD s
  | .keyHexE => Sys2Proof.Machine.execKeyHexE s
  | .keyHexF => Sys2Proof.Machine.execKeyHexF s
  | .keyL => Sys2Proof.Machine.execKeyL s
  | .keyR => Sys2Proof.Machine.execKeyR s
  | .keyG => Sys2Proof.Machine.execKeyG s
  | .keyW => Sys2Proof.Machine.execKeyW s
  | .keyP => Sys2Proof.Machine.execKeyP s
  | .keyZ => Sys2Proof.Machine.execKeyZ s
  | .keyM => Sys2Proof.Machine.execKeyM s
  | .keyNop c => Sys2Proof.Machine.execKeyNop c s
  | .keyChar c => Sys2Proof.Machine.execKeyChar c s
  | .keyboardNop c => Sys2Proof.Machine.execKeyboardNop c s
  | .release => Sys2Proof.Machine.execRelease s

end Sys2Proof.Machine
end

