-- ==== Sys2Proof/Machine/Step.lean ====
section
/-! DEFINITION. One step of the machine, at the grain of one input: attach, one command, symbol or event from its
acceptance to its end, a restart, or REL's pending work. What interleaves inside a command is in `State.env.sched`. -/

namespace Sys2Proof.Machine

/-- A restart: the session there is, if it still lives, ends after so many of REL's steps, and a new one begins
(R169, R180, R190). -/
def restart (arrivals steps : Nat) (s : State) : State := newSession (deliver arrivals steps s)

/-- A session that has ended takes nothing but a restart (R29, R169, R190; U5, U19, U23). -/
def restartOnly (stop : Fault) (s : State) : Result :=
  match s.inputs with
  | .restart a n :: rest => .next (restart a n { s with inputs := rest })
  | _ => .fault stop

/-- The next input in IDLE: a word is decoded in the present interaction mode and executed; while time passes, REL takes
the steps it takes; with no input, REL finishes what is pending and otherwise nothing happens (R130, R147, R201). -/
def takeInput (s : State) : Result :=
  match s.inputs with
  | [] => .next (relDrain s)
  | .events a n :: rest => .next (deliver a n { s with inputs := rest })
  | .restart a n :: rest => .next (restart a n { s with inputs := rest })
  | .offer o :: rest => exec (decode s.imode o) { s with inputs := rest }

/-- The first input a command in progress does not make wait, and the others: events and a restart come on lines of their
own, while words and symbols wait for IDLE (R29, R131, R172, U19). -/
def notWaiting : List Input → Option (Input × List Input)
  | [] => none
  | .offer .evt :: rest => some (.offer .evt, rest)
  | .events a n :: rest => some (.events a n, rest)
  | .restart a n :: rest => some (.restart a n, rest)
  | i :: rest => (notWaiting rest).map fun p => (p.1, i :: p.2)

/-- A state inside a command: an event is handled, a restart kills, and a word or symbol waits, as R29 and U19 have the
caller do; with neither, REL finishes what is pending. SEQ goes on inside the step that took the command, so no step of
this machine ends in such a state (log entry 27). -/
def takeEvent (s : State) : Result :=
  match notWaiting s.inputs with
  | some (.offer o, rest) => exec (decode s.imode o) { s with inputs := rest }
  | some (.events a n, rest) => .next (deliver a n { s with inputs := rest })
  | some (.restart a n, rest) => .next (restart a n { s with inputs := rest })
  | none => .next (relDrain s)

/-- One step. -/
def step (s : State) : Host.Outcome State Fault Refusal :=
  match s.run with
  | .unattached => .next (attach s)
  | .idle => takeInput s
  | .busy => takeEvent s
  | .faulted => restartOnly .sessionFaulted s
  | .terminated => restartOnly .sessionTerminated s

/-- `s` with the word of `nbits` bits and value `w` as the next input. -/
def State.withFetchWord (s : State) (nbits w : Nat) : State :=
  match offerOfBits nbits w with
  | .ok o => { s with inputs := .offer o :: s.inputs }
  | .error _ => s

end Sys2Proof.Machine
end

