-- ==== Sys2Proof/Safety.lean ====
section
/-! DEFINITION. What counts as a good environment and a good state, and the effect of the fixed sequences on what an
observer sees, in the terms the claims use. Nothing here is called by the machine. -/

namespace Sys2Proof.Safety

open Sys2Proof.Machine

/-! Environments. -/

/-- No access and no image operation fails (U11, U12: "a proof about good runs assumes none fails"). -/
def Reliable (e : Env) : Prop := (∀ r ∈ e.pio, r = .ok) ∧ (∀ r ∈ e.img, r = .ok)

/-- The session is not killed inside a command. -/
def NoKill (e : Env) : Prop := ∀ x ∈ e.sched, x.kill = false

/-- Nothing fails and nothing happens between two atomic steps of SEQ: no kill, no event, no step of REL. -/
def Calm (e : Env) : Prop := Reliable e ∧ ∀ x ∈ e.sched, x = ⟨false, 0, 0⟩

/-- FPB takes commands and nothing disturbs them, under the parameters the spec decides. -/
def Ready (s : State) : Prop := s.run = .idle ∧ s.cfg = Params.decided ∧ Calm s.env

/-! Results. -/

/-- A command has ended with `Resp(st, val)`, which the record holds, having changed nothing but `last_st` (R31, R67,
R179); `e` is the environment left. -/
def answered (s : State) (e : Env) (st : BitVec 4) (val : Byte) : State :=
  { s with
    env := e, run := .idle, seqPc := .empty, lastSt := st, resp := some ⟨st, val⟩
    trace := s.trace ++ [.resp ⟨st, val⟩] }

/-- A write of port A by SEQ (`A:v` in the traces of 95_test_vectors). -/
def wA (v : Byte) : Event := .write .seq .portA v
/-- A write of port B by SEQ (`B:v`). -/
def wB (v : Byte) : Event := .write .seq .portB v

/-! The two mirrors and the record of accesses, under the operations the sequences are made of (R80, R82, R111, R112).
Each says the byte it writes directly, bit by bit of R61. -/

/-- The two mirrors, the two value registers and the accesses made so far. -/
structure Bus where
  data  : Byte
  ctl   : Byte
  portA : Byte
  portB : Byte
  trace : List Event
  deriving DecidableEq, Repr

/-- What a state shows of its bus. -/
def busOf (s : State) : Bus := ⟨s.data, s.ctl, s.periph.portA, s.periph.portB, s.trace⟩

/-- One write of port B, mirrored. -/
def Bus.putB (v : Byte) (b : Bus) : Bus := { b with ctl := v, portB := v, trace := b.trace ++ [wB v] }
/-- One write of port A, mirrored. -/
def Bus.putA (v : Byte) (b : Bus) : Bus := { b with data := v, portA := v, trace := b.trace ++ [wA v] }
/-- SET_MODE with the code in place: bits 4:3 (R63, R84). -/
def Bus.setMode (code : Byte) (b : Bus) : Bus := b.putB ((b.ctl &&& 0xE7#8) ||| code)
/-- SET_MP: bit 0, active-high (R86). -/
def Bus.setMp (v : Bool) (b : Bus) : Bus := b.putB (if v then b.ctl ||| 0x01#8 else b.ctl &&& 0xFE#8)
/-- SET_EF4: bit 2, inverted (R88). -/
def Bus.setEf4 (v : Bool) (b : Bus) : Bus := b.putB (if v then b.ctl &&& 0xFB#8 else b.ctl ||| 0x04#8)
/-- SET_STB: bit 1, inverted (R90). -/
def Bus.setStb (v : Bool) (b : Bus) : Bus := b.putB (if v then b.ctl &&& 0xFD#8 else b.ctl ||| 0x02#8)
/-- PULSE: assert, hold at least 5 ms, deassert (R111). -/
def Bus.pulse (b : Bus) : Bus :=
  let b := b.setEf4 true
  Bus.setEf4 false { b with trace := b.trace ++ [.holdBegin 5, .holdEnd] }
/-- An access that is no port access is noted. -/
def Bus.note (e : Event) (b : Bus) : Bus := { b with trace := b.trace ++ [e] }
/-- One byte of an image: read, put on port A, pulsed (R112 steps 2 to 4). -/
def Bus.loadByte (img : ImageId) (b : Bus) (x : Byte) : Bus := ((b.note (.imgByte img x)).putA x).pulse
/-- LOAD_PROGRAM: open, every byte in order, end of stream (R112). -/
def Bus.load (img : ImageId) (bytes : List Byte) (b : Bus) : Bus :=
  (bytes.foldl (Bus.loadByte img) (b.note (.imgOpen img))).note (.imgEof img)

/-- RUN_MONITOR, its ten steps (R114). -/
def Bus.runMonitor (b : Bus) : Bus :=
  let b := (b.setMode 0x10#8).setMode 0x00#8
  let b := (b.putA 0xC0#8).pulse
  let b := (b.putA 0x80#8).pulse
  let b := (b.putA 0x00#8).pulse
  (b.setMode 0x10#8).setMode 0x18#8

/-- LOAD_MONITOR, its nineteen steps (R113). -/
def Bus.loadMonitor (im : Images) (b : Bus) : Bus :=
  let b := ((b.setMode 0x10#8).setMode 0x00#8).setMp false
  let b := b.load .bootstrap im.bootstrap
  let b := (b.setMode 0x10#8).setMode 0x18#8
  let b := (b.putA 0x80#8).pulse
  let b := (b.putA 0x00#8).pulse
  let b := b.load .monitor im.monitor
  let b := (b.setMode 0x10#8).setMode 0x18#8
  let b := (b.putA 0x84#8).pulse
  let b := (b.putA 0x00#8).pulse
  let b := b.load .bios im.bios
  b.setMode 0x10#8

/-- `s` with the bus `b`: nothing else changed. -/
def withBus (s : State) (b : Bus) : State :=
  { s with data := b.data, ctl := b.ctl, trace := b.trace,
           periph := { s.periph with portA := b.portA, portB := b.portB } }

/-- The status tuple `s` shows (R148). -/
def tupleOf (s : State) : StatusTuple := ⟨s.imode, (modeOf s.ctl).label, s.ctl.getLsbD 0, s.data⟩

/-- `s`, in IDLE, with its status rendered: the tuple; the responses of the three getters it issues, GET_MODE, GET_MP and
GET_DATA, in the record; the last of them and its status left (R148, R31, R67, R179). -/
def rendered (s : State) : State :=
  { s with
    status := some (tupleOf s)
    seqPc := .empty, lastSt := 0, resp := some ⟨0, s.data⟩
    trace := s.trace ++
      [.resp ⟨0, s.ctl &&& 0x18#8⟩, .resp ⟨0, if s.ctl.getLsbD 0 then 0x01#8 else 0x00#8⟩, .resp ⟨0, s.data⟩,
       .status (tupleOf s)] }

/-- The accesses at the collaborators and the holds among some events: all but the outputs to the host. -/
def isAccess : Event → Bool
  | .resp _ | .status _ => false
  | .read _ _ _ | .readFail _ _ | .write _ _ _ | .writeFail _ _ _ | .holdBegin _ | .holdEnd
  | .imgOpen _ | .imgOpenFail _ | .imgByte _ _ | .imgEof _ | .imgReadFail _ => true

/-- The port writes among some events. -/
def isWrite : Event → Bool
  | .write _ _ _ => true
  | .read _ _ _ | .readFail _ _ | .writeFail _ _ _ | .holdBegin _ | .holdEnd
  | .imgOpen _ | .imgOpenFail _ | .imgByte _ _ | .imgEof _ | .imgReadFail _ | .resp _ | .status _ => false

/-- The holds among some events. -/
def isHold : Event → Bool
  | .holdBegin _ => true
  | .write _ _ _ | .read _ _ _ | .readFail _ _ | .writeFail _ _ _ | .holdEnd
  | .imgOpen _ | .imgOpenFail _ | .imgByte _ _ | .imgEof _ | .imgReadFail _ | .resp _ | .status _ => false

/-- The least time some events take, in milliseconds: the sum of their holds (R213). -/
def leastMs : List Event → Nat
  | [] => 0
  | .holdBegin n :: es => n + leastMs es
  | _ :: es => leastMs es

/-! REL's steps, each one whole setter (R57 with `RMW_ATOMIC = true`, R146). -/

/-- How many steps REL has still to do: two for each event not begun, and the rest of the one begun. -/
def relWork (s : State) : Nat :=
  2 * s.relPending + (match s.rel with
    | none => 0
    | some ⟨.ef4, _⟩ => 2
    | some ⟨.stb, _⟩ => 1)

/-- The line REL writes next. -/
def relLine (s : State) : Line := match s.rel with
  | none => .ef4
  | some p => p.line

/-- The lines REL writes in its next `n` steps, the first of them `l`. -/
def relLines : Line → Nat → List Line
  | _, 0 => []
  | .ef4, n + 1 => .ef4 :: relLines .stb n
  | .stb, n + 1 => .stb :: relLines .ef4 n

/-- One line deasserted, every other bit as before (R61). -/
def deassert (c : Byte) : Line → Byte
  | .ef4 => c ||| 0x04#8
  | .stb => c ||| 0x02#8

/-- REL's writes of port B that deassert these lines in turn, the first on the byte `c`. -/
def relWrites (c : Byte) : List Line → List Event
  | [] => []
  | l :: ls => .write .rel .portB (deassert c l) :: relWrites (deassert c l) ls

/-- Several inputs' operations one after another, while each answers a next state. -/
def runAll : List Instr → State → Option State
  | [], s => some s
  | i :: is, s => match exec i s with
    | .next t => runAll is t
    | .fault _ => none
    | .refused _ => none

/-- The sixteen digit keys by their nibble (R135). -/
def hexKeyOf (n : Fin 16) : Instr :=
  [ Instr.keyHex0, .keyHex1, .keyHex2, .keyHex3, .keyHex4, .keyHex5, .keyHex6, .keyHex7,
    .keyHex8, .keyHex9, .keyHexA, .keyHexB, .keyHexC, .keyHexD, .keyHexE, .keyHexF ].get n

/-! Invariants. -/

/-- The mirror equals the port (R28, mirror coherence). -/
def Coherent (s : State) : Prop := s.data = s.periph.portA ∧ s.ctl = s.periph.portB

/-- Coherent while the session lives (R28). -/
def MirrorInv (s : State) : Prop := (s.run = .idle ∨ s.run = .busy) → Coherent s

/-- `seq_pc` is empty outside a command, and never deeper than three frames (R30). -/
def SeqPcInv (s : State) : Prop :=
  (s.run = .unattached ∨ s.run = .idle ∨ s.run = .terminated → s.seqPc = .empty) ∧ s.seqPc.frames.length ≤ 3

/-- `cause` records a fault exactly in FAULTED (R31). -/
def CauseInv (s : State) : Prop := s.cause ≠ .none ↔ s.run = .faulted

/-- Both ports stay configured all-output while the session lives (R198). -/
def OutputInv (s : State) : Prop :=
  (s.run = .idle ∨ s.run = .busy ∨ s.run = .terminated) →
    s.periph.dirA = Config.dirAllOutput ∧ s.periph.dirB = Config.dirAllOutput

/-- `last_st` in a live session is 0, 2 or 6 (R31, R167). -/
def LastStInv (s : State) : Prop := s.run = .idle → s.lastSt = 0 ∨ s.lastSt = 2 ∨ s.lastSt = 6

end Sys2Proof.Safety
end

