-- ==== Sys2Proof/Certificates/Slice0/Obligations.lean ====
section
/-! DEFINITION. The statements for the provers. `Ready s` is: `run` IDLE, the decided parameters, and an environment in
which nothing fails and nothing interleaves (Safety); `answered`, `withBus` and `rendered` give whole states, so an
equality with one of them is also the frame: every field it does not name is as before. -/

open Sys2Proof Sys2Proof.Machine Sys2Proof.Safety

/-! Encodings. -/

/-- Decoding the encoding of a well-formed instruction gives it back, in every interaction mode its word belongs to. -/
def Obligations.DecodeOfEncodeIsTheInstruction : Prop :=
  ∀ (i : Instr) (m : IMode), i.wellFormed = true → i.decodesIn m = true → decode m (encode i) = i

/-- Every word decodes, to a well-formed instruction of its interaction mode. -/
def Obligations.DecoderAnswersWellFormedInstructions : Prop :=
  ∀ (m : IMode) (o : Offer), (decode m o).wellFormed = true ∧ (decode m o).decodesIn m = true

/-- R73: exactly the words it lists are reserved, SET_MODE of any byte is not among them, and a reserved word is refused:
it answers `Resp(6, 0x00)`, makes no access and changes no register but `last_st`; the record holds the response. -/
def Obligations.ReservedCommandWordsAreExactlyThoseListed : Prop :=
  ∀ w : CmdWord,
    let op := w.toNat / 4096
    let z := w.toNat / 256 % 16
    let arg := w.toNat % 256
    let reserved : Prop :=
      op = 0xE ∨ op = 0xF ∨ z ≠ 0 ∨
      (op ∈ [0x0, 0x2, 0x4, 0x6, 0x8, 0xA, 0xC, 0xD] ∧ arg ≠ 0) ∨
      (op ∈ [0x5, 0x7, 0x9] ∧ arg / 2 ≠ 0) ∨
      (op = 0xB ∧ (arg / 4 ≠ 0 ∨ arg % 4 = 3))
    (decodeCmd w = .reservedCmd w ↔ reserved) ∧
    (op = 0x3 → z = 0 → decodeCmd w = .setMode (BitVec.ofNat 8 arg)) ∧
    (reserved → ∀ s : State, s.run = .idle → s.seqPc = .empty →
      exec (decodeCmd w) s =
        .next { s with lastSt := 6, resp := some ⟨6, 0x00#8⟩, trace := s.trace ++ [.resp ⟨6, 0x00#8⟩] })

/-- R70, R71, R131: quit and toggle first in both modes, upper case folded in both, the KEYBOARD rows. -/
def Obligations.KeySymbolsAreFoldedThenTestedInOrder : Prop :=
  (∀ m : IMode, decodeKey m 0x71#8 = .quit ∧ decodeKey m 0x00#8 = .toggle) ∧
  (∀ (m : IMode) (c : Byte), 0x41 ≤ c.toNat → c.toNat ≤ 0x5A → decodeKey m c = decodeKey m (c + 0x20#8)) ∧
  (∀ c : Byte, 0x20 ≤ c.toNat → c.toNat ≤ 0x7E → ¬(0x41 ≤ c.toNat ∧ c.toNat ≤ 0x5A) → c ≠ 0x71#8 →
    decodeKey .keyboard c = .keyChar c) ∧
  (∀ c : Byte, c ≠ 0x00#8 → (c.toNat < 0x20 ∨ 0x7E < c.toNat) → decodeKey .keyboard c = .keyboardNop c)

/-- Sanity: words written out from R66, R70 to R72 decode to their instructions. -/
def Obligations.WrittenOutWordsDecode : Prop :=
  decode .control (.cmd 0b0001000010100101#16) = .setData 0xA5#8 ∧
  decode .keyboard (.cmd 0b1011000000000010#16) = .loadProgram2 ∧
  decode .control (.cmd 0b0011000000000100#16) = .setMode 0x04#8 ∧
  decode .control (.cmd 0b1011000000000011#16) = .reservedCmd 0xB003#16 ∧
  decode .control (.key 0b01000110#8) = .keyHexF ∧
  decode .keyboard (.key 0b01100110#8) = .keyChar 0x66#8 ∧
  decode .control .evt = .release

/-- R61, R64: the fields of PB8, and encoding them back, which R64 derives from R61 and R63; R101, R102: mode codes and
modes are inverse; R105: the labels. -/
def Obligations.PortBByteDecodesAndEncodes : Prop :=
  (∀ b : Byte, decMode b = b &&& 0x18#8 ∧ decMp b = b.getLsbD 0 ∧ decEf4 b = !b.getLsbD 2 ∧ decStb b = !b.getLsbD 1 ∧
    (decHi b).toNat = b.toNat / 32 ∧ encCtl (decHi b) (decMode b) (decEf4 b) (decStb b) (decMp b) = b) ∧
  (∀ b : Byte, (modeOf b).code = b &&& 0x18#8) ∧ (∀ m : Mode, modeOf m.code = m) ∧
  Mode.load.code = 0x00#8 ∧ Mode.pause.code = 0x08#8 ∧ Mode.reset.code = 0x10#8 ∧ Mode.run.code = 0x18#8 ∧
  Mode.load.label = "LOAD " ∧ Mode.pause.label = "PAUSE" ∧ Mode.reset.label = "RESET" ∧ Mode.run.label = "RUN  "

/-! The step. -/

/-- In IDLE a step takes the next word and runs the instruction it decodes to, in the present interaction mode, on the
state with that word taken. -/
def Obligations.StepRunsTheDecodedInstruction : Prop :=
  ∀ (s : State) (o : Offer) (rest : List Input) (i : Instr),
    s.run = .idle → s.inputs = .offer o :: rest → decode s.imode o = i →
      step s = exec i { s with inputs := rest }

/-- With nothing offered and no release pending, nothing happens: R201, which the spec derives from R191 and R130. -/
def Obligations.IdleWithoutInputDoesNothing : Prop :=
  ∀ s : State, s.run = .idle → s.inputs = [] → s.relPending = 0 → s.rel = none → step s = .next s

/-- R29, R146, U19, D33: in UNATTACHED, FAULTED and TERMINATED no command and no symbol is taken and no event is handled;
in BUSY a command or symbol waits and changes nothing. That an input not taken stops the machine, where U19 and D33 call
the state stuck, and how a waiting one is said, are the model's (log entries 10 and 27). -/
def Obligations.NothingIsTakenOutsideALiveSession : Prop :=
  (∀ (i : Instr) (s : State), i ≠ .release → s.run ≠ .idle → s.run ≠ .busy → exec i s = .fault (.notTaken s.run)) ∧
  (∀ (i : Instr) (s : State), i ≠ .release → s.run = .busy → exec i s = .next s) ∧
  (∀ s : State, s.run ≠ .idle → s.run ≠ .busy → exec .release s = .fault (.eventNotHandled s.run))

/-- R169, R180: a session that has ended takes nothing but a restart, which keeps the peripheral and the images. That
other inputs stop the machine is the model's reading of "stuck" (log entry 10); that a restart is an input and leaves the
inputs behind it waiting is the model's choice (log entry 24), and so is that the record goes on (log entry 12). That
`cause` is none and `seq_pc` empty in UNATTACHED, as R30 and R31 have it and R37 does not, is log entry 11; that no release
is pending or half handled there is log entries 23 and 32. -/
def Obligations.EndedSessionTakesOnlyARestart : Prop :=
  ∀ s : State, s.run = .faulted ∨ s.run = .terminated →
    (∀ a n rest, s.inputs = .restart a n :: rest →
      ∃ t, step s = .next t ∧ t.run = .unattached ∧ t.periph = s.periph ∧ t.images = s.images ∧ t.cause = .none ∧
        t.seqPc = .empty ∧ t.relPending = 0 ∧ t.rel = none ∧ t.inputs = rest ∧ t.trace = s.trace) ∧
    ((∀ a n rest, s.inputs ≠ .restart a n :: rest) →
      step s = .fault (if s.run = .faulted then .sessionFaulted else .sessionTerminated))

/-! RegisterStore. -/

/-- R81, R83, R85, R87, R89: each getter answers from the mirror, with no access: the record has its response alone. -/
def Obligations.GettersAnswerFromTheMirror : Prop :=
  ∀ s : State, s.run = .idle → Calm s.env →
    ∃ e, Calm e ∧
      exec .getData s = .next (answered s e 0 s.data) ∧
      exec .getMode s = .next (answered s e 0 (s.ctl &&& 0x18#8)) ∧
      exec .getMp s = .next (answered s e 0 (if s.ctl.getLsbD 0 then 0x01#8 else 0x00#8)) ∧
      exec .getEf4 s = .next (answered s e 0 (if s.ctl.getLsbD 2 then 0x00#8 else 0x01#8)) ∧
      exec .getStb s = .next (answered s e 0 (if s.ctl.getLsbD 1 then 0x00#8 else 0x01#8))

/-- R82: SET_DATA writes the whole byte to port A, then the mirror; R45: the pins of an all-output port show it. -/
def Obligations.SetDataWritesPortAWhole : Prop :=
  ∀ (s : State) (b : Byte), Ready s →
    ∃ e, Calm e ∧ exec (.setData b) s = .next (answered (withBus s ((busOf s).putA b)) e 0 0x00#8) ∧
      (s.periph.dirA = Config.dirAllOutput → (withBus s ((busOf s).putA b)).periph.pins .a = some b)

/-- R84: SET_MODE with a mode code writes bits 4:3 of port B and leaves every other bit. -/
def Obligations.SetModeWritesTheModeField : Prop :=
  ∀ (s : State) (m : Byte), Ready s → m ∈ [0x00#8, 0x08#8, 0x10#8, 0x18#8] →
    ∃ e, Calm e ∧ exec (.setMode m) s = .next (answered (withBus s ((busOf s).setMode m)) e 0 0x00#8)

/-- R84, R162: any other argument is refused with status 2, whatever the environment, and nothing else changes but the
record, which holds the response (R179). -/
def Obligations.SetModeRefusesEveryOtherByte : Prop :=
  ∀ (s : State) (m : Byte), s.run = .idle → m ∉ [0x00#8, 0x08#8, 0x10#8, 0x18#8] → s.seqPc = .empty →
    exec (.setMode m) s =
      .next { s with lastSt := 2, resp := some ⟨2, 0x00#8⟩, trace := s.trace ++ [.resp ⟨2, 0x00#8⟩] }

/-- R73, R166: a reserved word is refused with status 6, whatever the environment, and nothing else changes but the
record, which holds the response (R179). -/
def Obligations.ReservedWordsAreRefused : Prop :=
  ∀ (s : State) (w : CmdWord), s.run = .idle → s.seqPc = .empty →
    exec (.reservedCmd w) s =
      .next { s with lastSt := 6, resp := some ⟨6, 0x00#8⟩, trace := s.trace ++ [.resp ⟨6, 0x00#8⟩] }

/-- R86, R88, R90: the three Boolean setters, `mem_protect` as is, `ef4_n` and `stb_n` inverted. -/
def Obligations.BooleanSettersWriteTheirBit : Prop :=
  ∀ (s : State) (v : Bool), Ready s →
    (∃ e, Calm e ∧ exec (.setMp v) s = .next (answered (withBus s ((busOf s).setMp v)) e 0 0x00#8)) ∧
    (∃ e, Calm e ∧ exec (.setEf4 v) s = .next (answered (withBus s ((busOf s).setEf4 v)) e 0 0x00#8)) ∧
    (∃ e, Calm e ∧ exec (.setStb v) s = .next (answered (withBus s ((busOf s).setStb v)) e 0 0x00#8))

/-- R80 with `RMW_SOURCE = port`: each of the four setters, PULSE (R111) and RELEASE (R146) read the old byte from port B
before each write, and a setter whose read fails enters FAULTED and writes no register of the port space and no mirror.
Nothing is said here of the composites and keys made of these; attach reads no old byte (R191). That the
fault leaves `last_st` is log entry 17. -/
def Obligations.PortSourceSettersReadPortB : Prop :=
  ∀ (s : State) (m : Byte) (v : Bool), s.run = .idle → s.cfg = ⟨.port, true⟩ → m ∈ [0x00#8, 0x08#8, 0x10#8, 0x18#8] →
    let p := s.periph.portB
    let wrote (new : Byte) (es : List Event) : State :=
      { s with ctl := new, periph := { s.periph with portB := new }, trace := s.trace ++ es }
    let set (new : Byte) : State := wrote new [.read .seq .portB p, wB new]
    (Calm s.env →
      (∃ e, Calm e ∧ exec (.setMode m) s = .next (answered (set ((p &&& 0xE7#8) ||| m)) e 0 0x00#8)) ∧
      (∃ e, Calm e ∧ exec (.setMp v) s =
        .next (answered (set (if v then p ||| 0x01#8 else p &&& 0xFE#8)) e 0 0x00#8)) ∧
      (∃ e, Calm e ∧ exec (.setEf4 v) s =
        .next (answered (set (if v then p &&& 0xFB#8 else p ||| 0x04#8)) e 0 0x00#8)) ∧
      (∃ e, Calm e ∧ exec (.setStb v) s =
        .next (answered (set (if v then p &&& 0xFD#8 else p ||| 0x02#8)) e 0 0x00#8)) ∧
      (∃ e, Calm e ∧ exec .pulse s =
        .next (answered (wrote (p ||| 0x04#8) [.read .seq .portB p, wB (p &&& 0xFB#8), .holdBegin 5, .holdEnd,
          .read .seq .portB (p &&& 0xFB#8), wB (p ||| 0x04#8)]) e 0 0x00#8)) ∧
      (s.relPending = 0 → s.rel = none →
        ∃ e, Calm e ∧ exec .release s =
          .next { wrote (p ||| 0x06#8) [.read .rel .portB p, .write .rel .portB (p ||| 0x04#8),
            .read .rel .portB (p ||| 0x04#8), .write .rel .portB (p ||| 0x06#8)] with env := e })) ∧
    (∀ left rest, s.env.pio = .fail left :: rest → s.env.sched = [] →
      ∀ i ∈ [Instr.setMode m, .setMp v, .setEf4 v, .setStb v],
        exec i s = .next
          { s with run := .faulted, cause := .portIOError .b .read, loop := .exitedFailure, seqPc := .empty,
                   resp := some ⟨5, 0x00#8⟩, env := ⟨rest, s.env.img, []⟩,
                   trace := s.trace ++ [.readFail .seq .portB, .resp ⟨5, 0x00#8⟩] })

/-- The three properties that R92 derives from R80 to R90. (1) After SET_MODE X, GET_MODE answers X and the other three
getters what they answered before; (2) after SET_DATA b, GET_DATA answers b, whatever the environment, if no fault and no
kill ends the session, and without these it does complete; (3) toggling a line or the protect bit leaves every other bit
of `ctl`. (1) and (3) are said of runs in which no release is handled, as R92 does. -/
def Obligations.SettersAndGettersHaveTheSourcesThreeProperties : Prop :=
  (∀ s : State, Ready s →
    (∀ m ∈ [0x00#8, 0x08#8, 0x10#8, 0x18#8], ∃ t, exec (.setMode m) s = .next t ∧
      (∃ u, exec .getMode t = .next u ∧ u.resp = some ⟨0, m⟩) ∧
      (∀ g ∈ [Instr.getMp, .getEf4, .getStb], ∃ u v, exec g s = .next u ∧ exec g t = .next v ∧ u.resp = v.resp)) ∧
    (runAll [.setEf4 true, .setEf4 false] s).map (fun t => t.ctl &&& 0xFB#8) = some (s.ctl &&& 0xFB#8) ∧
    (runAll [.setStb true, .setStb false] s).map (fun t => t.ctl &&& 0xFD#8) = some (s.ctl &&& 0xFD#8) ∧
    (runAll [.setMp true, .setMp false] s).map (fun t => t.ctl &&& 0xFE#8) = some (s.ctl &&& 0xFE#8)) ∧
  (∀ (s : State) (b : Byte), s.run = .idle →
    (∀ t u, exec (.setData b) s = .next t → exec .getData t = .next u → u.run = .idle → u.resp = some ⟨0, b⟩) ∧
    (Reliable s.env → NoKill s.env → (runAll [.setData b, .getData] s).map (·.run) = some .idle))

/-- R91: setters of different fields commute on `ctl` and on port B, and each is idempotent on them. -/
def Obligations.SettersCommuteAndAreIdempotent : Prop :=
  ∀ (s : State) (m : Byte) (p e b : Bool), Ready s → m ∈ [0x00#8, 0x08#8, 0x10#8, 0x18#8] →
    let setters := [Instr.setMode m, .setMp p, .setEf4 e, .setStb b]
    (∀ i ∈ setters, ∀ j ∈ setters, i ≠ j →
      ∃ t u, runAll [i, j] s = some t ∧ runAll [j, i] s = some u ∧ t.ctl = u.ctl ∧ t.periph = u.periph) ∧
    (∀ i ∈ setters, ∃ t u, runAll [i] s = some t ∧ runAll [i, i] s = some u ∧ t.ctl = u.ctl ∧ t.periph = u.periph)

/-- Frame, whatever fails and however REL interleaves: an operation on port B alone changes neither `data` nor the other
three registers of the peripheral. -/
def Obligations.PortBOperationsLeavePortA : Prop :=
  ∀ (i : Instr) (s t : State),
    (match i with
      | .getData | .getMode | .getMp | .getEf4 | .getStb | .setMode _ | .setMp _ | .setEf4 _ | .setStb _ | .pulse
      | .reservedCmd _ | .quit | .toggle | .keyIrqI | .keyIrqNewline | .keyIrqSpace | .keyL | .keyR | .keyG | .keyW
      | .keyP | .keyNop _ | .keyboardNop _ | .release => True
      | _ => False) →
    NoKill s.env → exec i s = .next t →
      t.data = s.data ∧ t.periph.portA = s.periph.portA ∧ t.periph.dirA = s.periph.dirA ∧ t.periph.dirB = s.periph.dirB

/-! Bootstrap. -/

/-- R111: assert, hold at least 5 ms, deassert. -/
def Obligations.PulseAssertsHoldsAndDeasserts : Prop :=
  ∀ s : State, Ready s →
    ∃ e, Calm e ∧ exec .pulse s = .next (answered (withBus s (busOf s).pulse) e 0 0x00#8)

/-- R112: every byte of the image in order, each put on port A and pulsed before the next is read. That
no image is open at the end is log entry 21. -/
def Obligations.LoadProgramSendsEveryByteInOrder : Prop :=
  ∀ s : State, Ready s →
    (∃ e, Calm e ∧ exec .loadProgram0 s = .next (answered
      { withBus s ((busOf s).load .bootstrap s.images.bootstrap) with handle := none } e 0 0x00#8)) ∧
    (∃ e, Calm e ∧ exec .loadProgram1 s = .next (answered
      { withBus s ((busOf s).load .monitor s.images.monitor) with handle := none } e 0 0x00#8)) ∧
    (∃ e, Calm e ∧ exec .loadProgram2 s = .next (answered
      { withBus s ((busOf s).load .bios s.images.bios) with handle := none } e 0 0x00#8))

/-- R113: the nineteen steps in order. That no image is open at the end is log entry 21. -/
def Obligations.LoadMonitorRunsItsNineteenSteps : Prop :=
  ∀ s : State, Ready s →
    ∃ e, Calm e ∧ exec .loadMonitor s = .next (answered
      { withBus s ((busOf s).loadMonitor s.images) with handle := none } e 0 0x00#8)

/-- R114: the ten steps in order, whatever the state before. -/
def Obligations.RunMonitorRunsItsTenSteps : Prop :=
  ∀ s : State, Ready s →
    ∃ e, Calm e ∧ exec .runMonitor s = .next (answered (withBus s (busOf s).runMonitor) e 0 0x00#8)

/-- R113, R114 corner cases, R213: the end states, the counts of port writes and pulses, and the least time. RUN_MONITOR
makes 13 writes and 3 pulses in at least 15 ms; LOAD_MONITOR of `n` image bytes in all makes `20 + 3n` writes and `n + 4`
pulses in at least `5 (n + 4)` ms. -/
def Obligations.FixedSequencesEndStatesAndCounts : Prop :=
  ∀ s : State, Ready s →
    let n := s.images.bootstrap.length + s.images.monitor.length + s.images.bios.length
    (∃ t es, exec .runMonitor s = .next t ∧ t.trace = s.trace ++ es ∧
      t.data = 0x00#8 ∧ modeOf t.ctl = .run ∧ decEf4 t.ctl = false ∧
      decMp t.ctl = decMp s.ctl ∧ decStb t.ctl = decStb s.ctl ∧ decHi t.ctl = decHi s.ctl ∧
      (es.filter isWrite).length = 13 ∧ (es.filter isHold).length = 3 ∧ leastMs es = 15) ∧
    (∃ t es, exec .loadMonitor s = .next t ∧ t.trace = s.trace ++ es ∧
      t.data = s.images.bios.getLastD 0x00#8 ∧ modeOf t.ctl = .reset ∧ decMp t.ctl = false ∧ decEf4 t.ctl = false ∧
      decStb t.ctl = decStb s.ctl ∧ decHi t.ctl = decHi s.ctl ∧
      (es.filter isWrite).length = 20 + 3 * n ∧ (es.filter isHold).length = n + 4 ∧ leastMs es = 5 * (n + 4))

/-- R115 (a), (b), however REL interleaves and whatever fails, if the composite ends well: `ef4_n` is false and bits 7:5
are as before, and `stb_n` is asserted only if it was. LOAD_PROGRAM of an empty image is left
out of (a): it writes nothing (R112, log entry 26). -/
def Obligations.CompositesEndWithEf4Deasserted : Prop :=
  ∀ (i : Instr) (s t : State), s.cfg = Params.decided → exec i s = .next t → t.run = .idle →
    (i = .pulse ∨ i = .runMonitor ∨ i = .loadMonitor ∨
      (i = .loadProgram0 ∧ s.images.bootstrap ≠ []) ∨ (i = .loadProgram1 ∧ s.images.monitor ≠ []) ∨
      (i = .loadProgram2 ∧ s.images.bios ≠ [])) →
    decEf4 t.ctl = false ∧ decHi t.ctl = decHi s.ctl ∧ (decStb t.ctl = true → decStb s.ctl = true)

/-! Keys. -/

/-- R132: quit ends the session, with no command, no write and no status; and REL with it, wherever it stands: an event
of which REL has taken one of two steps stays half handled (R147, R172). That such an event is an input of its own is the
model's choice (log entry 22). -/
def Obligations.QuitEndsTheSession : Prop :=
  (∀ s : State, s.run = .idle → exec .quit s = .next { s with run := .terminated, loop := .exitedSuccess }) ∧
  (∀ (s : State) (rest : List Input), s.run = .idle → s.cfg = Params.decided → Reliable s.env → s.relPending = 0 →
    s.rel = none → s.inputs = .events 1 1 :: .offer (.key 0x71#8) :: rest →
    ∃ t u, step s = .next t ∧ step t = .next u ∧ u.run = .terminated ∧ u.loop = .exitedSuccess ∧ u.inputs = rest ∧
      u.ctl = s.ctl ||| 0x04#8 ∧ u.periph.portB = s.ctl ||| 0x04#8 ∧ u.data = s.data ∧ u.status = s.status ∧
      u.trace = s.trace ++ [.write .rel .portB (s.ctl ||| 0x04#8)])

/-- R133: TOGGLE flips `imode`, and then the status is rendered (R148). That the three getters of the status answer like
any other command is log entry 19. -/
def Obligations.ToggleFlipsTheInteractionMode : Prop :=
  ∀ s : State, s.run = .idle → Calm s.env →
    ∃ e, Calm e ∧ exec .toggle s = .next
      { rendered { s with imode := if s.imode = .control then .keyboard else .control } with env := e }

/-- R150 property 7: no other operation changes `imode`, whatever fails and however REL interleaves. -/
def Obligations.OnlyToggleChangesTheInteractionMode : Prop :=
  ∀ (i : Instr) (s t : State), NoKill s.env → i ≠ .toggle → exec i s = .next t → t.imode = s.imode

/-- R143, R145: the two no-ops do nothing, and then the status is rendered (R148): first when nothing fails and nothing
interleaves; then under any environment without a kill: SEQ makes no access of its own, so the record grows by steps of
REL's, responses of the getters and the status alone. That the three getters of the status answer like any other command
is log entry 19. -/
def Obligations.NoOpKeysOnlyRenderStatus : Prop :=
  ∀ (s : State) (c : Byte), s.run = .idle → ∀ i ∈ [Instr.keyNop c, .keyboardNop c],
    (Calm s.env → ∃ e, Calm e ∧ exec i s = .next { rendered s with env := e }) ∧
    (NoKill s.env → ∃ t es, exec i s = .next t ∧ t.trace = s.trace ++ es ∧ t.data = s.data ∧ t.imode = s.imode ∧
      ∀ x ∈ es, (∃ v, x = .read .rel .portB v) ∨ (∃ v, x = .write .rel .portB v) ∨ x = .readFail .rel .portB ∨
        (∃ v, x = .writeFail .rel .portB v) ∨ (∃ r, x = .resp r) ∨ (∃ v, x = .status v))

/-- R134: the three interrupt keys assert `ef4_n`; then the status is rendered (R148). That the getters of the status
answer like any other command, and leave GET_DATA's response and `last_st` 0, is log entry 19. -/
def Obligations.InterruptKeysAssertEf4 : Prop :=
  ∀ s : State, Ready s → ∀ i ∈ [Instr.keyIrqI, .keyIrqNewline, .keyIrqSpace],
    ∃ e, Calm e ∧ exec i s = .next (rendered (answered (withBus s ((busOf s).setEf4 true)) e 0 0x00#8))

/-- R135: a digit key shifts its nibble into `data`, which it reads by GET_DATA (D32); then the status is rendered (R148).
That these getters answer like any other command, and the last leaves its response and `last_st` 0, is log entry 19. -/
def Obligations.HexKeysShiftInTheirNibble : Prop :=
  ∀ s : State, Ready s → ∀ n : Fin 16,
    ∃ e, Calm e ∧
      let asked := answered s e 0 s.data
      exec (hexKeyOf n) s = .next (rendered (answered
        (withBus asked ((busOf asked).putA (BitVec.ofNat 8 (s.data.toNat * 16 + n.val)))) e 0 0x00#8))

/-- R150 property 6: after any digits the byte is the last two. -/
def Obligations.HexDigitsLeaveTheLastTwo : Prop :=
  ∀ (s : State) (before : List (Fin 16)) (a b : Fin 16), Ready s →
    (runAll ((before ++ [a, b]).map hexKeyOf) s).map (·.data) = some (BitVec.ofNat 8 (a.val * 16 + b.val))

/-- R136 to R139: the four mode keys; then the status is rendered (R148). That the getters of the status answer like any
other command, and leave GET_DATA's response and `last_st` 0, is log entry 19. -/
def Obligations.ModeKeysSetTheirMode : Prop :=
  ∀ s : State, Ready s →
    ∀ p ∈ [(Instr.keyL, 0x00#8), (.keyR, 0x10#8), (.keyG, 0x18#8), (.keyW, 0x08#8)],
      ∃ e, Calm e ∧ exec p.1 s = .next (rendered (answered (withBus s ((busOf s).setMode p.2)) e 0 0x00#8))

/-- R140: the protect key negates `mem_protect`, which it reads by GET_MP (D32); then the status is rendered (R148). That
these getters answer like any other command, and the last leaves its response and `last_st` 0, is log entry 19. -/
def Obligations.ProtectKeyNegatesMemProtect : Prop :=
  ∀ s : State, Ready s →
    ∃ e, Calm e ∧
      let asked := answered s e 0 (if s.ctl.getLsbD 0 then 0x01#8 else 0x00#8)
      exec .keyP s =
        .next (rendered (answered (withBus asked ((busOf asked).setMp (!s.ctl.getLsbD 0))) e 0 0x00#8))

/-- R141, R142: the two bootstrap keys run LOAD_MONITOR and RUN_MONITOR, then the status is rendered (R148). That the
getters of the status answer like any other command, and leave GET_DATA's response and `last_st` 0, is log entry 19; that
no image is open after KEY_Z is log entry 21. -/
def Obligations.BootstrapKeysRunTheirSequence : Prop :=
  ∀ s : State, Ready s →
    (∃ e, Calm e ∧ exec .keyZ s = .next (rendered (answered
      { withBus s ((busOf s).loadMonitor s.images) with handle := none } e 0 0x00#8))) ∧
    (∃ e, Calm e ∧ exec .keyM s = .next (rendered (answered (withBus s (busOf s).runMonitor) e 0 0x00#8)))

/-- R144: the character on port A first, then the strobe, two commands; then the status is rendered (R148). That the
getters of the status answer like any other command, and leave GET_DATA's response and `last_st` 0, is log entry 19. -/
def Obligations.CharacterKeyWritesDataThenStrobe : Prop :=
  ∀ (s : State) (c : Byte), Ready s →
    ∃ e, Calm e ∧
      let sent := answered (withBus s ((busOf s).putA c)) e 0 0x00#8
      exec (.keyChar c) s = .next (rendered (answered (withBus sent ((busOf sent).setStb true)) e 0 0x00#8))

/-! The release event. -/

/-- R146: REL writes `ef4_n` false, then `stb_n` false, always both. That it has written both before the next input is the
model's choice for this input (log entry 22). -/
def Obligations.ReleaseDeassertsBothLines : Prop :=
  ∀ s : State, s.run = .idle ∨ s.run = .busy → s.cfg = Params.decided → Reliable s.env →
    s.relPending = 0 → s.rel = none →
    ∃ e, Reliable e ∧ e.sched = s.env.sched ∧
      exec .release s = .next
        { s with env := e, ctl := s.ctl ||| 0x06#8, periph := { s.periph with portB := s.ctl ||| 0x06#8 },
                 trace := s.trace ++ [.write .rel .portB (s.ctl ||| 0x04#8), .write .rel .portB (s.ctl ||| 0x06#8)] }

/-- R146, R35: every event delivered is handled once, each with its two writes, under either atomicity. That none is left
pending at the next input is the model's choice for this input (log entry 22): the two rules set no bound. -/
def Obligations.EveryPendingReleaseIsHandledOnce : Prop :=
  ∀ s : State, s.run = .idle → s.cfg.rmwSource = .mirror → Reliable s.env → s.rel = none →
    ∃ t es, exec .release s = .next t ∧ t.run = .idle ∧ t.relPending = 0 ∧ t.rel = none ∧
      t.ctl = s.ctl ||| 0x06#8 ∧ t.periph.portB = s.ctl ||| 0x06#8 ∧
      t.trace = s.trace ++ es ∧ es.length = 2 * (s.relPending + 1) ∧
      (∀ x ∈ es, ∃ v, x = .write .rel .portB v)

/-- R146: REL never changes the mode, `mem_protect` or bits 7:5, nor any register of SEQ's or the host's, whatever
fails. That it leaves `last_st` when it faults is read from R31 (log entry 17). -/
def Obligations.ReleaseLeavesEverythingElse : Prop :=
  ∀ s t : State, s.cfg = Params.decided → exec .release s = .next t →
    t.ctl &&& 0xF9#8 = s.ctl &&& 0xF9#8 ∧ t.data = s.data ∧ t.seqPc = s.seqPc ∧ t.lastSt = s.lastSt ∧
    t.freshA = s.freshA ∧ t.freshB = s.freshB ∧ t.handle = s.handle ∧ t.imode = s.imode ∧ t.inputs = s.inputs ∧
    t.status = s.status ∧ t.images = s.images ∧ t.cfg = s.cfg ∧ t.free = s.free ∧
    t.periph.portA = s.periph.portA ∧ t.periph.dirA = s.periph.dirA ∧ t.periph.dirB = s.periph.dirB

/-- R204: a release handled during the hold of a pulse deasserts the line early, and SEQ goes on as if it had not. -/
def Obligations.ReleaseDuringTheHoldCutsThePulseShort : Prop :=
  ∀ s : State, s.run = .idle → s.cfg = Params.decided → s.relPending = 0 → s.rel = none →
    s.env = ⟨[], [], [⟨false, 0, 0⟩, ⟨false, 0, 0⟩, ⟨false, 1, 2⟩]⟩ →
    exec .pulse s = .next (answered
      { s with ctl := s.ctl ||| 0x06#8, periph := { s.periph with portB := s.ctl ||| 0x06#8 },
               trace := s.trace ++
                 [wB (s.ctl &&& 0xFB#8), .holdBegin 5,
                  .write .rel .portB (s.ctl ||| 0x04#8), .write .rel .portB (s.ctl ||| 0x06#8),
                  .holdEnd, wB (s.ctl ||| 0x06#8)] } ⟨[], [], []⟩ 0 0x00#8)

/-- R57, R172 with `RMW_ATOMIC = true`: however REL interleaves, at the two points of the command (log entry 2), the four
setters complete, and no update is lost: REL takes as many steps at each point as the slot lets it and it has to do, each
deasserts its own line on the byte it finds and changes no other bit, and so does the setter with its field between the
points; `ctl`, port B and the record are exactly that. What follows of it, in short: every bit of `ctl` outside the two
lines is as before but for the field set; a line the setter does not write that was deasserted stays so, and an event that
REL has finished by the end, pending before, half handled before or arrived inside, has deasserted it; a line set to false
is deasserted at the end, and a line set to true is asserted unless REL has written it since. -/
def Obligations.AtomicSettersLoseNoUpdate : Prop :=
  ∀ s : State, s.run = .idle → s.cfg = Params.decided → Reliable s.env → NoKill s.env →
    -- the slots of the two points; past the end of the list nothing happens there
    let slot (n : Nat) : Slot := s.env.sched[n]?.getD ⟨false, 0, 0⟩
    -- REL's steps at each, and the lines they write
    let n1 := min (slot 0).relSteps (relWork s + 2 * (slot 0).arrivals)
    let n2 := min (slot 1).relSteps (relWork s + 2 * (slot 0).arrivals - n1 + 2 * (slot 1).arrivals)
    let first := (relLines (relLine s) (n1 + n2)).take n1
    let second := (relLines (relLine s) (n1 + n2)).drop n1
    -- the events not begun by the start of the command, those that arrive inside among them
    let events := s.relPending + ((s.env.sched.take 2).map Slot.arrivals).sum
    -- the events not finished by its end
    let left (t : State) : Nat := t.relPending + (if t.rel = none then 0 else 1)
    -- the setter writes the byte `set c` on finding `c`; it does not write the lines `mask`
    let good (set : Byte → Byte) (mask : Byte) (t : State) : Prop :=
      t.run = .idle ∧ t.resp = some ⟨0, 0x00#8⟩ ∧ t.env.sched = s.env.sched.drop 2 ∧
      (let new := set (first.foldl deassert s.ctl)
       t.ctl = second.foldl deassert new ∧ t.periph.portB = t.ctl ∧
       t.trace = s.trace ++ (relWrites s.ctl first ++ wB new :: relWrites new second ++ [.resp ⟨0, 0x00#8⟩])) ∧
      (s.ctl ||| t.ctl) &&& mask = t.ctl &&& mask ∧
      (left t < events + (if s.rel.map RelPos.line = some .ef4 then 1 else 0) → t.ctl &&& mask = mask) ∧
      (left t < events + (if s.rel = none then 0 else 1) → t.ctl &&& (mask &&& 0x02#8) = mask &&& 0x02#8)
    (∀ m ∈ [0x00#8, 0x08#8, 0x10#8, 0x18#8], ∃ t, exec (.setMode m) s = .next t ∧
      good (fun c => (c &&& 0xE7#8) ||| m) 0x06#8 t ∧ t.ctl &&& 0xF9#8 = (s.ctl &&& 0xE1#8) ||| m) ∧
    (∀ v : Bool, ∃ t, exec (.setMp v) s = .next t ∧
      good (fun c => if v then c ||| 0x01#8 else c &&& 0xFE#8) 0x06#8 t ∧
      t.ctl &&& 0xF9#8 = (s.ctl &&& 0xF8#8) ||| (if v then 0x01#8 else 0x00#8)) ∧
    (∀ v : Bool, ∃ t, exec (.setEf4 v) s = .next t ∧
      good (fun c => if v then c &&& 0xFB#8 else c ||| 0x04#8) 0x02#8 t ∧ t.ctl &&& 0xF9#8 = s.ctl &&& 0xF9#8 ∧
      (v = false → decEf4 t.ctl = false) ∧ (v = true → .ef4 ∉ second → decEf4 t.ctl = true)) ∧
    (∀ v : Bool, ∃ t, exec (.setStb v) s = .next t ∧
      good (fun c => if v then c &&& 0xFD#8 else c ||| 0x02#8) 0x04#8 t ∧ t.ctl &&& 0xF9#8 = s.ctl &&& 0xF9#8 ∧
      (v = false → decStb t.ctl = false) ∧ (v = true → .stb ∉ second → decStb t.ctl = true))

/-- R57, R205 with `RMW_ATOMIC = false`: a run in which a release handled inside SET_MODE RESET is undone by it. -/
def Obligations.SplitSettersCanLoseAnUpdate : Prop :=
  ∃ s t : State, s.run = .idle ∧ s.cfg = ⟨.mirror, false⟩ ∧ Reliable s.env ∧ NoKill s.env ∧ s.ctl = 0x1A#8 ∧ Coherent s ∧
    exec (.setMode 0x10#8) s = .next t ∧ t.run = .idle ∧ t.relPending = 0 ∧ t.rel = none ∧ t.ctl = 0x12#8 ∧
    t.trace = s.trace ++ [.write .rel .portB 0x1E#8, wB 0x12#8, .write .rel .portB 0x12#8, .resp ⟨0, 0x00#8⟩]

/-! Faults. -/

/-- R165, R168: a setter whose write fails leaves the mirror, leaves the port at any value, and enters the fault. That
the fault leaves `last_st` is read from R31 (log entry 17). -/
def Obligations.FailedSetterWriteEntersTheFault : Prop :=
  ∀ (s : State) (left : Byte) (rest : List PioReply) (m b : Byte) (v : Bool),
    s.run = .idle → s.cfg = Params.decided → s.env.pio = .fail left :: rest → s.env.sched = [] →
    m ∈ [0x00#8, 0x08#8, 0x10#8, 0x18#8] →
    let failedB (new : Byte) : State :=
      { s with run := .faulted, cause := .portIOError .b .write, loop := .exitedFailure, seqPc := .empty,
               resp := some ⟨5, 0x00#8⟩, env := ⟨rest, s.env.img, []⟩,
               periph := { s.periph with portB := left }, trace := s.trace ++ [.writeFail .seq .portB new, .resp ⟨5, 0x00#8⟩] }
    exec (.setMode m) s = .next (failedB ((s.ctl &&& 0xE7#8) ||| m)) ∧
    exec (.setMp v) s = .next (failedB (if v then s.ctl ||| 0x01#8 else s.ctl &&& 0xFE#8)) ∧
    exec (.setEf4 v) s = .next (failedB (if v then s.ctl &&& 0xFB#8 else s.ctl ||| 0x04#8)) ∧
    exec (.setStb v) s = .next (failedB (if v then s.ctl &&& 0xFD#8 else s.ctl ||| 0x02#8)) ∧
    exec (.setData b) s = .next
      { s with run := .faulted, cause := .portIOError .a .write, loop := .exitedFailure, seqPc := .empty,
               resp := some ⟨5, 0x00#8⟩, env := ⟨rest, s.env.img, []⟩,
               periph := { s.periph with portA := left }, trace := s.trace ++ [.writeFail .seq .portA b, .resp ⟨5, 0x00#8⟩] }

/-- R111: a pulse whose deassert write fails leaves the line asserted in the mirror, and `seq_pc` at its step 3.
That the fault leaves `last_st` is read from R31 (log entry 17). -/
def Obligations.PulseFailingAtStepThreeStaysAsserted : Prop :=
  ∀ (s : State) (left : Byte) (rest : List PioReply),
    s.run = .idle → s.cfg = Params.decided → s.env.pio = .ok :: .fail left :: rest → s.env.sched = [] →
    exec .pulse s = .next
      { s with run := .faulted, cause := .portIOError .b .write, loop := .exitedFailure, seqPc := ⟨[⟨.pulse, 3⟩], 0⟩,
               resp := some ⟨5, 0x00#8⟩, env := ⟨rest, s.env.img, []⟩,
               ctl := s.ctl &&& 0xFB#8, periph := { s.periph with portB := left },
               trace := s.trace ++ [wB (s.ctl &&& 0xFB#8), .holdBegin 5, .holdEnd,
                                    .writeFail .seq .portB (s.ctl ||| 0x04#8), .resp ⟨5, 0x00#8⟩] }

/-- R163: an image that cannot be opened stops LOAD_PROGRAM at step 1 with nothing written. That the fault
leaves `last_st` is read from R31 (log entry 17). -/
def Obligations.UnopenableImageStopsTheLoad : Prop :=
  ∀ (s : State) (rest : List ImgReply), s.run = .idle → s.env.img = .fail :: rest → s.env.sched = [] →
    ∀ p ∈ [(Instr.loadProgram0, ImageId.bootstrap), (.loadProgram1, .monitor), (.loadProgram2, .bios)],
      exec p.1 s = .next
        { s with run := .faulted, cause := .imageNotFound p.2, loop := .exitedFailure,
                 seqPc := ⟨[⟨.loadProgram, 1⟩], 0⟩, resp := some ⟨3, 0x00#8⟩, env := ⟨s.env.pio, rest, []⟩,
                 trace := s.trace ++ [.imgOpenFail p.2, .resp ⟨3, 0x00#8⟩] }

/-- R112, R164: a stream that fails after `done` leaves exactly those bytes applied, and their count in `seq_pc`. That the
fault leaves `last_st` is log entry 17; that the image stays open is log entry 21. -/
def Obligations.BrokenImageLeavesTheBytesApplied : Prop :=
  ∀ (s : State) (done left : List Byte) (rest : List ImgReply),
    s.run = .idle → s.cfg = Params.decided → (∀ r ∈ s.env.pio, r = .ok) →
    s.env.img = .ok :: (List.replicate done.length .ok ++ .fail :: rest) → s.env.sched = [] →
    ∀ p ∈ [(Instr.loadProgram0, ImageId.bootstrap), (.loadProgram1, .monitor), (.loadProgram2, .bios)],
      s.images.bytes p.2 = done ++ left →
      let sent := done.foldl (Bus.loadByte p.2) ((busOf s).note (.imgOpen p.2))
      ∃ e, exec p.1 s = .next
        { withBus s ((sent.note (.imgReadFail p.2)).note (.resp ⟨4, 0x00#8⟩)) with
            run := .faulted, cause := .imageReadError p.2, loop := .exitedFailure,
            seqPc := ⟨[⟨.loadProgram, 2⟩], done.length⟩, resp := some ⟨4, 0x00#8⟩, handle := some p.2, env := e }

/-- R163, R168 (program P5): image 1 missing inside LOAD_MONITOR stops it at step 11 with the target left running.
That the fault leaves `last_st` is read from R31 (log entry 17), and `k = 0` there, after image 0 was counted, from R30
(log entry 18). -/
def Obligations.MissingMonitorImageStopsLoadMonitor : Prop :=
  ∀ (s : State) (rest : List ImgReply),
    s.run = .idle → s.cfg = Params.decided → (∀ r ∈ s.env.pio, r = .ok) → s.env.sched = [] →
    s.env.img = List.replicate (s.images.bootstrap.length + 2) .ok ++ .fail :: rest →
    ∃ t es, exec .loadMonitor s = .next t ∧ t.trace = s.trace ++ es ∧ t.run = .faulted ∧ t.cause = .imageNotFound .monitor ∧
      t.resp = some ⟨3, 0x00#8⟩ ∧ t.seqPc = ⟨[⟨.loadMonitor, 11⟩, ⟨.loadProgram, 1⟩], 0⟩ ∧
      t.data = 0x00#8 ∧ modeOf t.ctl = .run ∧ decMp t.ctl = false ∧ t.periph.portB = t.ctl ∧ t.lastSt = s.lastSt ∧
      (es.filter isWrite).length = 11 + 3 * s.images.bootstrap.length

/-- R146, R168: a release whose second write fails has done the first, and no command has answered. That the
fault leaves `last_st` is read from R31 (log entry 17), and that no response is given from R168 (log entry 32). -/
def Obligations.ReleaseFailingAtItsSecondWrite : Prop :=
  ∀ (s : State) (left : Byte) (rest : List PioReply),
    s.run = .idle → s.cfg = Params.decided → s.relPending = 0 → s.rel = none →
    s.env.pio = .ok :: .fail left :: rest →
    ∃ r, exec .release s = .next
      { s with run := .faulted, cause := .portIOError .b .write, loop := .exitedFailure, rel := r,
               env := ⟨rest, s.env.img, s.env.sched⟩,
               ctl := s.ctl ||| 0x04#8, periph := { s.periph with portB := left },
               trace := s.trace ++ [.write .rel .portB (s.ctl ||| 0x04#8), .writeFail .rel .portB (s.ctl ||| 0x06#8)] }

/-- R144: a character key whose strobe write fails has already put the byte on port A; no status is rendered.
That `last_st` is the 0 of the first command, and the fault leaves it, is read from R31 (log entry 17). -/
def Obligations.CharacterKeyFailingAtTheStrobe : Prop :=
  ∀ (s : State) (c left : Byte) (rest : List PioReply),
    s.run = .idle → s.cfg = Params.decided → s.env.pio = .ok :: .fail left :: rest → s.env.sched = [] →
    exec (.keyChar c) s = .next
      { s with run := .faulted, cause := .portIOError .b .write, loop := .exitedFailure, seqPc := .empty, lastSt := 0,
               resp := some ⟨5, 0x00#8⟩, env := ⟨rest, s.env.img, []⟩, data := c,
               periph := { s.periph with portA := c, portB := left },
               trace := s.trace ++
                 [wA c, .resp ⟨0, 0x00#8⟩, .writeFail .seq .portB (s.ctl &&& 0xFD#8), .resp ⟨5, 0x00#8⟩] }

/-! Reset. -/

/-- R191 to R196: attach judges each port alone, adopts the byte of a port that reads all-output and writes nothing to
it, and initialises any other, port A first. That no image is open and the loop runs after it is log entries 12 and 20. -/
def Obligations.AttachJudgesEachPortAlone : Prop :=
  ∀ s : State, s.run = .unattached → Reliable s.env → NoKill s.env →
    let warmA := s.periph.dirA = Config.dirAllOutput
    let warmB := s.periph.dirB = Config.dirAllOutput
    let a := if warmA then s.periph.portA else 0x00#8
    let b := if warmB then s.periph.portB else 0x16#8
    ∃ e, Reliable e ∧ NoKill e ∧
      step s = .next
        { s with data := a, ctl := b, freshA := decide (¬ warmA), freshB := decide (¬ warmB),
                 run := .idle, cause := .none, lastSt := 0, seqPc := .empty, handle := none, relPending := 0, rel := none,
                 imode := .control, loop := .running, env := e,
                 periph := ⟨Config.dirAllOutput, Config.dirAllOutput, a, b⟩,
                 trace := s.trace ++
                   (if warmA then [.read .seq .dirA s.periph.dirA, .read .seq .portA s.periph.portA]
                    else [.read .seq .dirA s.periph.dirA, .write .seq .dirA Config.dirAllOutput, wA 0x00#8]) ++
                   (if warmB then [.read .seq .dirB s.periph.dirB, .read .seq .portB s.periph.portB]
                    else [.read .seq .dirB s.periph.dirB, .write .seq .dirB Config.dirAllOutput, wB 0x16#8]) }

/-- R161, R165, R197: where attach stops when an access fails, and what it has done by then: each access of port A, cold
and warm, and each access of port B, cold and warm, after a port A of either outcome. -/
def Obligations.FailedAttachKeepsTheStepsDone : Prop :=
  ∀ (s : State) (left : Byte) (rest : List PioReply), s.run = .unattached → NoKill s.env →
    let warmA := s.periph.dirA = Config.dirAllOutput
    let warmB := s.periph.dirB = Config.dirAllOutput
    -- after port A: its accesses, its byte, the port space
    let doneA : List PioReply := if warmA then [.ok, .ok] else [.ok, .ok, .ok]
    let a := if warmA then s.periph.portA else 0x00#8
    let afterA : Periph := { s.periph with dirA := Config.dirAllOutput, portA := a }
    let failed (t : State) (c : Cause) (p : Periph) : Prop :=
      t.run = .faulted ∧ t.cause = c ∧ t.periph = p ∧ t.resp = s.resp ∧ t.ctl = s.ctl
    let failedA (c : Cause) (p : Periph) : Prop := ∃ t, step s = .next t ∧ failed t c p ∧ t.data = s.data
    let failedB (c : Cause) (p : Periph) : Prop :=
      ∃ t, step s = .next t ∧ failed t c p ∧ t.data = a ∧ t.freshA = decide (¬ warmA)
    (s.env.pio = .fail left :: rest → failedA (.configurationError .a .read) s.periph) ∧
    (¬ warmA → s.env.pio = .ok :: .fail left :: rest →
      failedA (.configurationError .a .write) { s.periph with dirA := left }) ∧
    (¬ warmA → s.env.pio = .ok :: .ok :: .fail left :: rest →
      failedA (.portIOError .a .write) { s.periph with dirA := Config.dirAllOutput, portA := left }) ∧
    (warmA → s.env.pio = .ok :: .fail left :: rest → failedA (.portIOError .a .read) s.periph) ∧
    (s.env.pio = doneA ++ .fail left :: rest → failedB (.configurationError .b .read) afterA) ∧
    (¬ warmB → s.env.pio = doneA ++ .ok :: .fail left :: rest →
      failedB (.configurationError .b .write) { afterA with dirB := left }) ∧
    (¬ warmB → s.env.pio = doneA ++ .ok :: .ok :: .fail left :: rest →
      failedB (.portIOError .b .write) { afterA with dirB := Config.dirAllOutput, portB := left }) ∧
    (warmB → s.env.pio = doneA ++ .ok :: .fail left :: rest → failedB (.portIOError .b .read) afterA)

/-- R37, R198: the reset state is what a cold attach of both ports leaves, and it meets every invariant stated here. That
the reset state is this one of the four outcomes R198 lists is the model's choice (log entry 8). -/
def Obligations.ResetStateIsTheColdOutcome : Prop :=
  let s := State.reset
  s.data = 0x00#8 ∧ s.ctl = 0x16#8 ∧ modeOf s.ctl = .reset ∧ decMp s.ctl = false ∧ decEf4 s.ctl = false ∧
  decStb s.ctl = false ∧ decHi s.ctl = 0 ∧ s.freshA = true ∧ s.freshB = true ∧ s.run = .idle ∧ s.cause = .none ∧
  s.lastSt = 0 ∧ s.seqPc = .empty ∧ s.imode = .control ∧ s.relPending = 0 ∧ s.rel = none ∧
  s.periph = ⟨Config.dirAllOutput, Config.dirAllOutput, 0x00#8, 0x16#8⟩ ∧
  MirrorInv s ∧ SeqPcInv s ∧ CauseInv s ∧ OutputInv s ∧ LastStInv s

/-- A fresh session on a peripheral with neither port all-output attaches to the reset state's registers (R169, R191,
R193, R198), after a session that ended by a fault or by quit. That a restart is an input is log entry 24; the handle, the
loop, the response and the status, which R198 does not list, are log entries 12 and 20. -/
def Obligations.ColdAttachReachesTheResetRegisters : Prop :=
  ∀ (s : State) (a n : Nat) (rest : List Input), s.run = .faulted ∨ s.run = .terminated →
    s.inputs = .restart a n :: rest → Reliable s.env → NoKill s.env →
    s.periph.dirA ≠ Config.dirAllOutput → s.periph.dirB ≠ Config.dirAllOutput →
    ∃ t u, step s = .next t ∧ step t = .next u ∧
      u.data = State.reset.data ∧ u.ctl = State.reset.ctl ∧ u.run = State.reset.run ∧ u.seqPc = State.reset.seqPc ∧
      u.cause = State.reset.cause ∧ u.lastSt = State.reset.lastSt ∧ u.freshA = State.reset.freshA ∧
      u.freshB = State.reset.freshB ∧ u.imode = State.reset.imode ∧ u.periph = State.reset.periph ∧
      u.relPending = State.reset.relPending ∧ u.rel = State.reset.rel ∧ u.handle = State.reset.handle ∧
      u.loop = State.reset.loop ∧ u.resp = State.reset.resp ∧ u.status = State.reset.status

/-! Invariants every step keeps. -/

/-- R28, R38: with atomic setters the mirror equals the port after every step, whatever fails and however REL
interleaves, as long as the session lives. -/
def Obligations.EveryStepKeepsMirrorCoherence : Prop :=
  ∀ s t : State, s.cfg.rmwAtomic = true → MirrorInv s → step s = .next t → MirrorInv t

/-- R28: and at every atomic action inside a command too. -/
def Obligations.MirrorIsCoherentAtEveryAction : Prop :=
  ∀ (ms : List Micro) (s : State), s.cfg.rmwAtomic = true → Coherent s →
    let t := ms.foldl seqStep s
    t.run = .idle ∨ t.run = .busy → Coherent t

/-- R30: `seq_pc` is empty outside a command and at most three frames deep. -/
def Obligations.EveryStepKeepsTheSequencerPosition : Prop :=
  ∀ s t : State, SeqPcInv s → step s = .next t → SeqPcInv t

/-- R31, R167: `cause` is non-zero exactly in FAULTED, and `last_st` in IDLE is 0, 2 or 6. -/
def Obligations.EveryStepKeepsCauseAndLastStatusLegal : Prop :=
  (∀ s t : State, CauseInv s → step s = .next t → CauseInv t) ∧
  (∀ s t : State, LastStInv s → step s = .next t → LastStInv t)

/-- R198: both ports stay all-output while the session lives. -/
def Obligations.EveryStepKeepsThePortsOutput : Prop :=
  ∀ s t : State, OutputInv s → step s = .next t → OutputInv t

/-- R47, R55: no step changes an image or a parameter, and the record of accesses only grows. That no step changes an image
is log entry 13, that the parameters are data of the machine log entry 14; that a restart is a step and the record goes on
over it is log entries 12 and 24. -/
def Obligations.EveryStepKeepsImagesAndExtendsTheRecord : Prop :=
  ∀ s t : State, step s = .next t → t.images = s.images ∧ t.cfg = s.cfg ∧ ∃ es, t.trace = s.trace ++ es
end

