-- ==== Sys2Proof/Laws/Bits.lean ====
section
/-! SUPPORT. The masked byte of each setter, as the bits its rule names (rules R80, R84, R86, R88, R90). -/

namespace Sys2Proof.Safety

open Sys2Proof.Machine

/-! The constants of R7 among themselves: the two written as combinations have the values the spec gives, and the widths
and counts are those of the types. -/

@[simp] theorem defCtl_eq : Config.defCtl = 0x16#8 := by decide
theorem byte_portWidth : Byte = BitVec Config.portWidth := rfl
theorem ports_nPorts (x : Port) : x ∈ [Port.a, .b] ∧ [Port.a, .b].length = Config.nPorts := by cases x <;> decide
theorem images_nImages (k : ImageId) :
    k ∈ [ImageId.bootstrap, .monitor, .bios] ∧ [ImageId.bootstrap, .monitor, .bios].length = Config.nImages := by
  cases k <;> decide

theorem masked_mode (c m : Byte) : maskedByte c Config.maskMode m = (c &&& 0xE7#8) ||| m := rfl

theorem masked_mp (c : Byte) (v : Bool) :
    maskedByte c Config.maskMp (mpBits v) = if v then c ||| 0x01#8 else c &&& 0xFE#8 := by
  revert c v; decide

theorem masked_ef4 (c : Byte) (v : Bool) :
    maskedByte c Config.maskEf4 (ef4Bits v) = if v then c &&& 0xFB#8 else c ||| 0x04#8 := by
  revert c v; decide

theorem masked_stb (c : Byte) (v : Bool) :
    maskedByte c Config.maskStb (stbBits v) = if v then c &&& 0xFD#8 else c ||| 0x02#8 := by
  revert c v; decide

/-- REL's setter of a line only sets its wire bit. -/
theorem masked_line (c : Byte) (l : Line) : maskedByte c l.mask l.mask = c ||| l.mask := by
  revert c; cases l <;> decide

/-- The bits outside the mask are those of the old byte: Invariant 1 (R28, R80). -/
theorem masked_keeps (c mask bits : Byte) (h : bits &&& ~~~mask = 0x00#8) :
    maskedByte c mask bits &&& ~~~mask = c &&& ~~~mask := by
  unfold maskedByte
  ext i hi
  have hb := congrArg (fun x : Byte => x.getLsbD i) h
  simp [hi] at hb ⊢
  cases hm : mask[i] <;> cases hv : bits[i] <;> simp_all

end Sys2Proof.Safety
end

