-- ==== Sys2Proof/Laws/State.lean ====
section
/-! SUPPORT. One lemma per field for each named update of the state. -/

namespace Sys2Proof.Machine

/-! `log` -/

@[simp] theorem State.log_data (e : Event) (s : State) : (s.log e).data = s.data := rfl
@[simp] theorem State.log_ctl (e : Event) (s : State) : (s.log e).ctl = s.ctl := rfl
@[simp] theorem State.log_run (e : Event) (s : State) : (s.log e).run = s.run := rfl
@[simp] theorem State.log_seqPc (e : Event) (s : State) : (s.log e).seqPc = s.seqPc := rfl
@[simp] theorem State.log_cause (e : Event) (s : State) : (s.log e).cause = s.cause := rfl
@[simp] theorem State.log_lastSt (e : Event) (s : State) : (s.log e).lastSt = s.lastSt := rfl
@[simp] theorem State.log_freshA (e : Event) (s : State) : (s.log e).freshA = s.freshA := rfl
@[simp] theorem State.log_freshB (e : Event) (s : State) : (s.log e).freshB = s.freshB := rfl
@[simp] theorem State.log_handle (e : Event) (s : State) : (s.log e).handle = s.handle := rfl
@[simp] theorem State.log_relPending (e : Event) (s : State) : (s.log e).relPending = s.relPending := rfl
@[simp] theorem State.log_rel (e : Event) (s : State) : (s.log e).rel = s.rel := rfl
@[simp] theorem State.log_imode (e : Event) (s : State) : (s.log e).imode = s.imode := rfl
@[simp] theorem State.log_loop (e : Event) (s : State) : (s.log e).loop = s.loop := rfl
@[simp] theorem State.log_inputs (e : Event) (s : State) : (s.log e).inputs = s.inputs := rfl
@[simp] theorem State.log_resp (e : Event) (s : State) : (s.log e).resp = s.resp := rfl
@[simp] theorem State.log_status (e : Event) (s : State) : (s.log e).status = s.status := rfl
@[simp] theorem State.log_trace (e : Event) (s : State) : (s.log e).trace = s.trace ++ [e] := rfl
@[simp] theorem State.log_periph (e : Event) (s : State) : (s.log e).periph = s.periph := rfl
@[simp] theorem State.log_images (e : Event) (s : State) : (s.log e).images = s.images := rfl
@[simp] theorem State.log_env (e : Event) (s : State) : (s.log e).env = s.env := rfl
@[simp] theorem State.log_cfg (e : Event) (s : State) : (s.log e).cfg = s.cfg := rfl
@[simp] theorem State.log_free (e : Event) (s : State) : (s.log e).free = s.free := rfl

/-! `setReg` -/

@[simp] theorem State.setReg_data (r : PortReg) (v : Byte) (s : State) : (s.setReg r v).data = s.data := rfl
@[simp] theorem State.setReg_ctl (r : PortReg) (v : Byte) (s : State) : (s.setReg r v).ctl = s.ctl := rfl
@[simp] theorem State.setReg_run (r : PortReg) (v : Byte) (s : State) : (s.setReg r v).run = s.run := rfl
@[simp] theorem State.setReg_seqPc (r : PortReg) (v : Byte) (s : State) : (s.setReg r v).seqPc = s.seqPc := rfl
@[simp] theorem State.setReg_cause (r : PortReg) (v : Byte) (s : State) : (s.setReg r v).cause = s.cause := rfl
@[simp] theorem State.setReg_lastSt (r : PortReg) (v : Byte) (s : State) : (s.setReg r v).lastSt = s.lastSt := rfl
@[simp] theorem State.setReg_freshA (r : PortReg) (v : Byte) (s : State) : (s.setReg r v).freshA = s.freshA := rfl
@[simp] theorem State.setReg_freshB (r : PortReg) (v : Byte) (s : State) : (s.setReg r v).freshB = s.freshB := rfl
@[simp] theorem State.setReg_handle (r : PortReg) (v : Byte) (s : State) : (s.setReg r v).handle = s.handle := rfl
@[simp] theorem State.setReg_relPending (r : PortReg) (v : Byte) (s : State) : (s.setReg r v).relPending = s.relPending := rfl
@[simp] theorem State.setReg_rel (r : PortReg) (v : Byte) (s : State) : (s.setReg r v).rel = s.rel := rfl
@[simp] theorem State.setReg_imode (r : PortReg) (v : Byte) (s : State) : (s.setReg r v).imode = s.imode := rfl
@[simp] theorem State.setReg_loop (r : PortReg) (v : Byte) (s : State) : (s.setReg r v).loop = s.loop := rfl
@[simp] theorem State.setReg_inputs (r : PortReg) (v : Byte) (s : State) : (s.setReg r v).inputs = s.inputs := rfl
@[simp] theorem State.setReg_resp (r : PortReg) (v : Byte) (s : State) : (s.setReg r v).resp = s.resp := rfl
@[simp] theorem State.setReg_status (r : PortReg) (v : Byte) (s : State) : (s.setReg r v).status = s.status := rfl
@[simp] theorem State.setReg_trace (r : PortReg) (v : Byte) (s : State) : (s.setReg r v).trace = s.trace := rfl
@[simp] theorem State.setReg_periph (r : PortReg) (v : Byte) (s : State) : (s.setReg r v).periph = s.periph.set r v := rfl
@[simp] theorem State.setReg_images (r : PortReg) (v : Byte) (s : State) : (s.setReg r v).images = s.images := rfl
@[simp] theorem State.setReg_env (r : PortReg) (v : Byte) (s : State) : (s.setReg r v).env = s.env := rfl
@[simp] theorem State.setReg_cfg (r : PortReg) (v : Byte) (s : State) : (s.setReg r v).cfg = s.cfg := rfl
@[simp] theorem State.setReg_free (r : PortReg) (v : Byte) (s : State) : (s.setReg r v).free = s.free := rfl

/-! `popPio` -/

@[simp] theorem State.popPio_data (s : State) : (s.popPio).data = s.data := rfl
@[simp] theorem State.popPio_ctl (s : State) : (s.popPio).ctl = s.ctl := rfl
@[simp] theorem State.popPio_run (s : State) : (s.popPio).run = s.run := rfl
@[simp] theorem State.popPio_seqPc (s : State) : (s.popPio).seqPc = s.seqPc := rfl
@[simp] theorem State.popPio_cause (s : State) : (s.popPio).cause = s.cause := rfl
@[simp] theorem State.popPio_lastSt (s : State) : (s.popPio).lastSt = s.lastSt := rfl
@[simp] theorem State.popPio_freshA (s : State) : (s.popPio).freshA = s.freshA := rfl
@[simp] theorem State.popPio_freshB (s : State) : (s.popPio).freshB = s.freshB := rfl
@[simp] theorem State.popPio_handle (s : State) : (s.popPio).handle = s.handle := rfl
@[simp] theorem State.popPio_relPending (s : State) : (s.popPio).relPending = s.relPending := rfl
@[simp] theorem State.popPio_rel (s : State) : (s.popPio).rel = s.rel := rfl
@[simp] theorem State.popPio_imode (s : State) : (s.popPio).imode = s.imode := rfl
@[simp] theorem State.popPio_loop (s : State) : (s.popPio).loop = s.loop := rfl
@[simp] theorem State.popPio_inputs (s : State) : (s.popPio).inputs = s.inputs := rfl
@[simp] theorem State.popPio_resp (s : State) : (s.popPio).resp = s.resp := rfl
@[simp] theorem State.popPio_status (s : State) : (s.popPio).status = s.status := rfl
@[simp] theorem State.popPio_trace (s : State) : (s.popPio).trace = s.trace := rfl
@[simp] theorem State.popPio_periph (s : State) : (s.popPio).periph = s.periph := rfl
@[simp] theorem State.popPio_images (s : State) : (s.popPio).images = s.images := rfl
@[simp] theorem State.popPio_env (s : State) : (s.popPio).env = { s.env with pio := s.env.pio.tail } := rfl
@[simp] theorem State.popPio_cfg (s : State) : (s.popPio).cfg = s.cfg := rfl
@[simp] theorem State.popPio_free (s : State) : (s.popPio).free = s.free := rfl

/-! `popImg` -/

@[simp] theorem State.popImg_data (s : State) : (s.popImg).data = s.data := rfl
@[simp] theorem State.popImg_ctl (s : State) : (s.popImg).ctl = s.ctl := rfl
@[simp] theorem State.popImg_run (s : State) : (s.popImg).run = s.run := rfl
@[simp] theorem State.popImg_seqPc (s : State) : (s.popImg).seqPc = s.seqPc := rfl
@[simp] theorem State.popImg_cause (s : State) : (s.popImg).cause = s.cause := rfl
@[simp] theorem State.popImg_lastSt (s : State) : (s.popImg).lastSt = s.lastSt := rfl
@[simp] theorem State.popImg_freshA (s : State) : (s.popImg).freshA = s.freshA := rfl
@[simp] theorem State.popImg_freshB (s : State) : (s.popImg).freshB = s.freshB := rfl
@[simp] theorem State.popImg_handle (s : State) : (s.popImg).handle = s.handle := rfl
@[simp] theorem State.popImg_relPending (s : State) : (s.popImg).relPending = s.relPending := rfl
@[simp] theorem State.popImg_rel (s : State) : (s.popImg).rel = s.rel := rfl
@[simp] theorem State.popImg_imode (s : State) : (s.popImg).imode = s.imode := rfl
@[simp] theorem State.popImg_loop (s : State) : (s.popImg).loop = s.loop := rfl
@[simp] theorem State.popImg_inputs (s : State) : (s.popImg).inputs = s.inputs := rfl
@[simp] theorem State.popImg_resp (s : State) : (s.popImg).resp = s.resp := rfl
@[simp] theorem State.popImg_status (s : State) : (s.popImg).status = s.status := rfl
@[simp] theorem State.popImg_trace (s : State) : (s.popImg).trace = s.trace := rfl
@[simp] theorem State.popImg_periph (s : State) : (s.popImg).periph = s.periph := rfl
@[simp] theorem State.popImg_images (s : State) : (s.popImg).images = s.images := rfl
@[simp] theorem State.popImg_env (s : State) : (s.popImg).env = { s.env with img := s.env.img.tail } := rfl
@[simp] theorem State.popImg_cfg (s : State) : (s.popImg).cfg = s.cfg := rfl
@[simp] theorem State.popImg_free (s : State) : (s.popImg).free = s.free := rfl

/-! `setData` -/

@[simp] theorem State.setData_data (v : Byte) (s : State) : (s.setData v).data = v := rfl
@[simp] theorem State.setData_ctl (v : Byte) (s : State) : (s.setData v).ctl = s.ctl := rfl
@[simp] theorem State.setData_run (v : Byte) (s : State) : (s.setData v).run = s.run := rfl
@[simp] theorem State.setData_seqPc (v : Byte) (s : State) : (s.setData v).seqPc = s.seqPc := rfl
@[simp] theorem State.setData_cause (v : Byte) (s : State) : (s.setData v).cause = s.cause := rfl
@[simp] theorem State.setData_lastSt (v : Byte) (s : State) : (s.setData v).lastSt = s.lastSt := rfl
@[simp] theorem State.setData_freshA (v : Byte) (s : State) : (s.setData v).freshA = s.freshA := rfl
@[simp] theorem State.setData_freshB (v : Byte) (s : State) : (s.setData v).freshB = s.freshB := rfl
@[simp] theorem State.setData_handle (v : Byte) (s : State) : (s.setData v).handle = s.handle := rfl
@[simp] theorem State.setData_relPending (v : Byte) (s : State) : (s.setData v).relPending = s.relPending := rfl
@[simp] theorem State.setData_rel (v : Byte) (s : State) : (s.setData v).rel = s.rel := rfl
@[simp] theorem State.setData_imode (v : Byte) (s : State) : (s.setData v).imode = s.imode := rfl
@[simp] theorem State.setData_loop (v : Byte) (s : State) : (s.setData v).loop = s.loop := rfl
@[simp] theorem State.setData_inputs (v : Byte) (s : State) : (s.setData v).inputs = s.inputs := rfl
@[simp] theorem State.setData_resp (v : Byte) (s : State) : (s.setData v).resp = s.resp := rfl
@[simp] theorem State.setData_status (v : Byte) (s : State) : (s.setData v).status = s.status := rfl
@[simp] theorem State.setData_trace (v : Byte) (s : State) : (s.setData v).trace = s.trace := rfl
@[simp] theorem State.setData_periph (v : Byte) (s : State) : (s.setData v).periph = s.periph := rfl
@[simp] theorem State.setData_images (v : Byte) (s : State) : (s.setData v).images = s.images := rfl
@[simp] theorem State.setData_env (v : Byte) (s : State) : (s.setData v).env = s.env := rfl
@[simp] theorem State.setData_cfg (v : Byte) (s : State) : (s.setData v).cfg = s.cfg := rfl
@[simp] theorem State.setData_free (v : Byte) (s : State) : (s.setData v).free = s.free := rfl

/-! `setCtl` -/

@[simp] theorem State.setCtl_data (v : Byte) (s : State) : (s.setCtl v).data = s.data := rfl
@[simp] theorem State.setCtl_ctl (v : Byte) (s : State) : (s.setCtl v).ctl = v := rfl
@[simp] theorem State.setCtl_run (v : Byte) (s : State) : (s.setCtl v).run = s.run := rfl
@[simp] theorem State.setCtl_seqPc (v : Byte) (s : State) : (s.setCtl v).seqPc = s.seqPc := rfl
@[simp] theorem State.setCtl_cause (v : Byte) (s : State) : (s.setCtl v).cause = s.cause := rfl
@[simp] theorem State.setCtl_lastSt (v : Byte) (s : State) : (s.setCtl v).lastSt = s.lastSt := rfl
@[simp] theorem State.setCtl_freshA (v : Byte) (s : State) : (s.setCtl v).freshA = s.freshA := rfl
@[simp] theorem State.setCtl_freshB (v : Byte) (s : State) : (s.setCtl v).freshB = s.freshB := rfl
@[simp] theorem State.setCtl_handle (v : Byte) (s : State) : (s.setCtl v).handle = s.handle := rfl
@[simp] theorem State.setCtl_relPending (v : Byte) (s : State) : (s.setCtl v).relPending = s.relPending := rfl
@[simp] theorem State.setCtl_rel (v : Byte) (s : State) : (s.setCtl v).rel = s.rel := rfl
@[simp] theorem State.setCtl_imode (v : Byte) (s : State) : (s.setCtl v).imode = s.imode := rfl
@[simp] theorem State.setCtl_loop (v : Byte) (s : State) : (s.setCtl v).loop = s.loop := rfl
@[simp] theorem State.setCtl_inputs (v : Byte) (s : State) : (s.setCtl v).inputs = s.inputs := rfl
@[simp] theorem State.setCtl_resp (v : Byte) (s : State) : (s.setCtl v).resp = s.resp := rfl
@[simp] theorem State.setCtl_status (v : Byte) (s : State) : (s.setCtl v).status = s.status := rfl
@[simp] theorem State.setCtl_trace (v : Byte) (s : State) : (s.setCtl v).trace = s.trace := rfl
@[simp] theorem State.setCtl_periph (v : Byte) (s : State) : (s.setCtl v).periph = s.periph := rfl
@[simp] theorem State.setCtl_images (v : Byte) (s : State) : (s.setCtl v).images = s.images := rfl
@[simp] theorem State.setCtl_env (v : Byte) (s : State) : (s.setCtl v).env = s.env := rfl
@[simp] theorem State.setCtl_cfg (v : Byte) (s : State) : (s.setCtl v).cfg = s.cfg := rfl
@[simp] theorem State.setCtl_free (v : Byte) (s : State) : (s.setCtl v).free = s.free := rfl

/-! `setRun` -/

@[simp] theorem State.setRun_data (v : RunState) (s : State) : (s.setRun v).data = s.data := rfl
@[simp] theorem State.setRun_ctl (v : RunState) (s : State) : (s.setRun v).ctl = s.ctl := rfl
@[simp] theorem State.setRun_run (v : RunState) (s : State) : (s.setRun v).run = v := rfl
@[simp] theorem State.setRun_seqPc (v : RunState) (s : State) : (s.setRun v).seqPc = s.seqPc := rfl
@[simp] theorem State.setRun_cause (v : RunState) (s : State) : (s.setRun v).cause = s.cause := rfl
@[simp] theorem State.setRun_lastSt (v : RunState) (s : State) : (s.setRun v).lastSt = s.lastSt := rfl
@[simp] theorem State.setRun_freshA (v : RunState) (s : State) : (s.setRun v).freshA = s.freshA := rfl
@[simp] theorem State.setRun_freshB (v : RunState) (s : State) : (s.setRun v).freshB = s.freshB := rfl
@[simp] theorem State.setRun_handle (v : RunState) (s : State) : (s.setRun v).handle = s.handle := rfl
@[simp] theorem State.setRun_relPending (v : RunState) (s : State) : (s.setRun v).relPending = s.relPending := rfl
@[simp] theorem State.setRun_rel (v : RunState) (s : State) : (s.setRun v).rel = s.rel := rfl
@[simp] theorem State.setRun_imode (v : RunState) (s : State) : (s.setRun v).imode = s.imode := rfl
@[simp] theorem State.setRun_loop (v : RunState) (s : State) : (s.setRun v).loop = s.loop := rfl
@[simp] theorem State.setRun_inputs (v : RunState) (s : State) : (s.setRun v).inputs = s.inputs := rfl
@[simp] theorem State.setRun_resp (v : RunState) (s : State) : (s.setRun v).resp = s.resp := rfl
@[simp] theorem State.setRun_status (v : RunState) (s : State) : (s.setRun v).status = s.status := rfl
@[simp] theorem State.setRun_trace (v : RunState) (s : State) : (s.setRun v).trace = s.trace := rfl
@[simp] theorem State.setRun_periph (v : RunState) (s : State) : (s.setRun v).periph = s.periph := rfl
@[simp] theorem State.setRun_images (v : RunState) (s : State) : (s.setRun v).images = s.images := rfl
@[simp] theorem State.setRun_env (v : RunState) (s : State) : (s.setRun v).env = s.env := rfl
@[simp] theorem State.setRun_cfg (v : RunState) (s : State) : (s.setRun v).cfg = s.cfg := rfl
@[simp] theorem State.setRun_free (v : RunState) (s : State) : (s.setRun v).free = s.free := rfl

/-! `setSeqPc` -/

@[simp] theorem State.setSeqPc_data (v : SeqPc) (s : State) : (s.setSeqPc v).data = s.data := rfl
@[simp] theorem State.setSeqPc_ctl (v : SeqPc) (s : State) : (s.setSeqPc v).ctl = s.ctl := rfl
@[simp] theorem State.setSeqPc_run (v : SeqPc) (s : State) : (s.setSeqPc v).run = s.run := rfl
@[simp] theorem State.setSeqPc_seqPc (v : SeqPc) (s : State) : (s.setSeqPc v).seqPc = v := rfl
@[simp] theorem State.setSeqPc_cause (v : SeqPc) (s : State) : (s.setSeqPc v).cause = s.cause := rfl
@[simp] theorem State.setSeqPc_lastSt (v : SeqPc) (s : State) : (s.setSeqPc v).lastSt = s.lastSt := rfl
@[simp] theorem State.setSeqPc_freshA (v : SeqPc) (s : State) : (s.setSeqPc v).freshA = s.freshA := rfl
@[simp] theorem State.setSeqPc_freshB (v : SeqPc) (s : State) : (s.setSeqPc v).freshB = s.freshB := rfl
@[simp] theorem State.setSeqPc_handle (v : SeqPc) (s : State) : (s.setSeqPc v).handle = s.handle := rfl
@[simp] theorem State.setSeqPc_relPending (v : SeqPc) (s : State) : (s.setSeqPc v).relPending = s.relPending := rfl
@[simp] theorem State.setSeqPc_rel (v : SeqPc) (s : State) : (s.setSeqPc v).rel = s.rel := rfl
@[simp] theorem State.setSeqPc_imode (v : SeqPc) (s : State) : (s.setSeqPc v).imode = s.imode := rfl
@[simp] theorem State.setSeqPc_loop (v : SeqPc) (s : State) : (s.setSeqPc v).loop = s.loop := rfl
@[simp] theorem State.setSeqPc_inputs (v : SeqPc) (s : State) : (s.setSeqPc v).inputs = s.inputs := rfl
@[simp] theorem State.setSeqPc_resp (v : SeqPc) (s : State) : (s.setSeqPc v).resp = s.resp := rfl
@[simp] theorem State.setSeqPc_status (v : SeqPc) (s : State) : (s.setSeqPc v).status = s.status := rfl
@[simp] theorem State.setSeqPc_trace (v : SeqPc) (s : State) : (s.setSeqPc v).trace = s.trace := rfl
@[simp] theorem State.setSeqPc_periph (v : SeqPc) (s : State) : (s.setSeqPc v).periph = s.periph := rfl
@[simp] theorem State.setSeqPc_images (v : SeqPc) (s : State) : (s.setSeqPc v).images = s.images := rfl
@[simp] theorem State.setSeqPc_env (v : SeqPc) (s : State) : (s.setSeqPc v).env = s.env := rfl
@[simp] theorem State.setSeqPc_cfg (v : SeqPc) (s : State) : (s.setSeqPc v).cfg = s.cfg := rfl
@[simp] theorem State.setSeqPc_free (v : SeqPc) (s : State) : (s.setSeqPc v).free = s.free := rfl

/-! `setHandle` -/

@[simp] theorem State.setHandle_data (v : Option ImageId) (s : State) : (s.setHandle v).data = s.data := rfl
@[simp] theorem State.setHandle_ctl (v : Option ImageId) (s : State) : (s.setHandle v).ctl = s.ctl := rfl
@[simp] theorem State.setHandle_run (v : Option ImageId) (s : State) : (s.setHandle v).run = s.run := rfl
@[simp] theorem State.setHandle_seqPc (v : Option ImageId) (s : State) : (s.setHandle v).seqPc = s.seqPc := rfl
@[simp] theorem State.setHandle_cause (v : Option ImageId) (s : State) : (s.setHandle v).cause = s.cause := rfl
@[simp] theorem State.setHandle_lastSt (v : Option ImageId) (s : State) : (s.setHandle v).lastSt = s.lastSt := rfl
@[simp] theorem State.setHandle_freshA (v : Option ImageId) (s : State) : (s.setHandle v).freshA = s.freshA := rfl
@[simp] theorem State.setHandle_freshB (v : Option ImageId) (s : State) : (s.setHandle v).freshB = s.freshB := rfl
@[simp] theorem State.setHandle_handle (v : Option ImageId) (s : State) : (s.setHandle v).handle = v := rfl
@[simp] theorem State.setHandle_relPending (v : Option ImageId) (s : State) : (s.setHandle v).relPending = s.relPending := rfl
@[simp] theorem State.setHandle_rel (v : Option ImageId) (s : State) : (s.setHandle v).rel = s.rel := rfl
@[simp] theorem State.setHandle_imode (v : Option ImageId) (s : State) : (s.setHandle v).imode = s.imode := rfl
@[simp] theorem State.setHandle_loop (v : Option ImageId) (s : State) : (s.setHandle v).loop = s.loop := rfl
@[simp] theorem State.setHandle_inputs (v : Option ImageId) (s : State) : (s.setHandle v).inputs = s.inputs := rfl
@[simp] theorem State.setHandle_resp (v : Option ImageId) (s : State) : (s.setHandle v).resp = s.resp := rfl
@[simp] theorem State.setHandle_status (v : Option ImageId) (s : State) : (s.setHandle v).status = s.status := rfl
@[simp] theorem State.setHandle_trace (v : Option ImageId) (s : State) : (s.setHandle v).trace = s.trace := rfl
@[simp] theorem State.setHandle_periph (v : Option ImageId) (s : State) : (s.setHandle v).periph = s.periph := rfl
@[simp] theorem State.setHandle_images (v : Option ImageId) (s : State) : (s.setHandle v).images = s.images := rfl
@[simp] theorem State.setHandle_env (v : Option ImageId) (s : State) : (s.setHandle v).env = s.env := rfl
@[simp] theorem State.setHandle_cfg (v : Option ImageId) (s : State) : (s.setHandle v).cfg = s.cfg := rfl
@[simp] theorem State.setHandle_free (v : Option ImageId) (s : State) : (s.setHandle v).free = s.free := rfl

/-! `setRelPending` -/

@[simp] theorem State.setRelPending_data (v : Nat) (s : State) : (s.setRelPending v).data = s.data := rfl
@[simp] theorem State.setRelPending_ctl (v : Nat) (s : State) : (s.setRelPending v).ctl = s.ctl := rfl
@[simp] theorem State.setRelPending_run (v : Nat) (s : State) : (s.setRelPending v).run = s.run := rfl
@[simp] theorem State.setRelPending_seqPc (v : Nat) (s : State) : (s.setRelPending v).seqPc = s.seqPc := rfl
@[simp] theorem State.setRelPending_cause (v : Nat) (s : State) : (s.setRelPending v).cause = s.cause := rfl
@[simp] theorem State.setRelPending_lastSt (v : Nat) (s : State) : (s.setRelPending v).lastSt = s.lastSt := rfl
@[simp] theorem State.setRelPending_freshA (v : Nat) (s : State) : (s.setRelPending v).freshA = s.freshA := rfl
@[simp] theorem State.setRelPending_freshB (v : Nat) (s : State) : (s.setRelPending v).freshB = s.freshB := rfl
@[simp] theorem State.setRelPending_handle (v : Nat) (s : State) : (s.setRelPending v).handle = s.handle := rfl
@[simp] theorem State.setRelPending_relPending (v : Nat) (s : State) : (s.setRelPending v).relPending = v := rfl
@[simp] theorem State.setRelPending_rel (v : Nat) (s : State) : (s.setRelPending v).rel = s.rel := rfl
@[simp] theorem State.setRelPending_imode (v : Nat) (s : State) : (s.setRelPending v).imode = s.imode := rfl
@[simp] theorem State.setRelPending_loop (v : Nat) (s : State) : (s.setRelPending v).loop = s.loop := rfl
@[simp] theorem State.setRelPending_inputs (v : Nat) (s : State) : (s.setRelPending v).inputs = s.inputs := rfl
@[simp] theorem State.setRelPending_resp (v : Nat) (s : State) : (s.setRelPending v).resp = s.resp := rfl
@[simp] theorem State.setRelPending_status (v : Nat) (s : State) : (s.setRelPending v).status = s.status := rfl
@[simp] theorem State.setRelPending_trace (v : Nat) (s : State) : (s.setRelPending v).trace = s.trace := rfl
@[simp] theorem State.setRelPending_periph (v : Nat) (s : State) : (s.setRelPending v).periph = s.periph := rfl
@[simp] theorem State.setRelPending_images (v : Nat) (s : State) : (s.setRelPending v).images = s.images := rfl
@[simp] theorem State.setRelPending_env (v : Nat) (s : State) : (s.setRelPending v).env = s.env := rfl
@[simp] theorem State.setRelPending_cfg (v : Nat) (s : State) : (s.setRelPending v).cfg = s.cfg := rfl
@[simp] theorem State.setRelPending_free (v : Nat) (s : State) : (s.setRelPending v).free = s.free := rfl

/-! `setRel` -/

@[simp] theorem State.setRel_data (v : Option RelPos) (s : State) : (s.setRel v).data = s.data := rfl
@[simp] theorem State.setRel_ctl (v : Option RelPos) (s : State) : (s.setRel v).ctl = s.ctl := rfl
@[simp] theorem State.setRel_run (v : Option RelPos) (s : State) : (s.setRel v).run = s.run := rfl
@[simp] theorem State.setRel_seqPc (v : Option RelPos) (s : State) : (s.setRel v).seqPc = s.seqPc := rfl
@[simp] theorem State.setRel_cause (v : Option RelPos) (s : State) : (s.setRel v).cause = s.cause := rfl
@[simp] theorem State.setRel_lastSt (v : Option RelPos) (s : State) : (s.setRel v).lastSt = s.lastSt := rfl
@[simp] theorem State.setRel_freshA (v : Option RelPos) (s : State) : (s.setRel v).freshA = s.freshA := rfl
@[simp] theorem State.setRel_freshB (v : Option RelPos) (s : State) : (s.setRel v).freshB = s.freshB := rfl
@[simp] theorem State.setRel_handle (v : Option RelPos) (s : State) : (s.setRel v).handle = s.handle := rfl
@[simp] theorem State.setRel_relPending (v : Option RelPos) (s : State) : (s.setRel v).relPending = s.relPending := rfl
@[simp] theorem State.setRel_rel (v : Option RelPos) (s : State) : (s.setRel v).rel = v := rfl
@[simp] theorem State.setRel_imode (v : Option RelPos) (s : State) : (s.setRel v).imode = s.imode := rfl
@[simp] theorem State.setRel_loop (v : Option RelPos) (s : State) : (s.setRel v).loop = s.loop := rfl
@[simp] theorem State.setRel_inputs (v : Option RelPos) (s : State) : (s.setRel v).inputs = s.inputs := rfl
@[simp] theorem State.setRel_resp (v : Option RelPos) (s : State) : (s.setRel v).resp = s.resp := rfl
@[simp] theorem State.setRel_status (v : Option RelPos) (s : State) : (s.setRel v).status = s.status := rfl
@[simp] theorem State.setRel_trace (v : Option RelPos) (s : State) : (s.setRel v).trace = s.trace := rfl
@[simp] theorem State.setRel_periph (v : Option RelPos) (s : State) : (s.setRel v).periph = s.periph := rfl
@[simp] theorem State.setRel_images (v : Option RelPos) (s : State) : (s.setRel v).images = s.images := rfl
@[simp] theorem State.setRel_env (v : Option RelPos) (s : State) : (s.setRel v).env = s.env := rfl
@[simp] theorem State.setRel_cfg (v : Option RelPos) (s : State) : (s.setRel v).cfg = s.cfg := rfl
@[simp] theorem State.setRel_free (v : Option RelPos) (s : State) : (s.setRel v).free = s.free := rfl

/-! `setSched` -/

@[simp] theorem State.setSched_data (v : List Slot) (s : State) : (s.setSched v).data = s.data := rfl
@[simp] theorem State.setSched_ctl (v : List Slot) (s : State) : (s.setSched v).ctl = s.ctl := rfl
@[simp] theorem State.setSched_run (v : List Slot) (s : State) : (s.setSched v).run = s.run := rfl
@[simp] theorem State.setSched_seqPc (v : List Slot) (s : State) : (s.setSched v).seqPc = s.seqPc := rfl
@[simp] theorem State.setSched_cause (v : List Slot) (s : State) : (s.setSched v).cause = s.cause := rfl
@[simp] theorem State.setSched_lastSt (v : List Slot) (s : State) : (s.setSched v).lastSt = s.lastSt := rfl
@[simp] theorem State.setSched_freshA (v : List Slot) (s : State) : (s.setSched v).freshA = s.freshA := rfl
@[simp] theorem State.setSched_freshB (v : List Slot) (s : State) : (s.setSched v).freshB = s.freshB := rfl
@[simp] theorem State.setSched_handle (v : List Slot) (s : State) : (s.setSched v).handle = s.handle := rfl
@[simp] theorem State.setSched_relPending (v : List Slot) (s : State) : (s.setSched v).relPending = s.relPending := rfl
@[simp] theorem State.setSched_rel (v : List Slot) (s : State) : (s.setSched v).rel = s.rel := rfl
@[simp] theorem State.setSched_imode (v : List Slot) (s : State) : (s.setSched v).imode = s.imode := rfl
@[simp] theorem State.setSched_loop (v : List Slot) (s : State) : (s.setSched v).loop = s.loop := rfl
@[simp] theorem State.setSched_inputs (v : List Slot) (s : State) : (s.setSched v).inputs = s.inputs := rfl
@[simp] theorem State.setSched_resp (v : List Slot) (s : State) : (s.setSched v).resp = s.resp := rfl
@[simp] theorem State.setSched_status (v : List Slot) (s : State) : (s.setSched v).status = s.status := rfl
@[simp] theorem State.setSched_trace (v : List Slot) (s : State) : (s.setSched v).trace = s.trace := rfl
@[simp] theorem State.setSched_periph (v : List Slot) (s : State) : (s.setSched v).periph = s.periph := rfl
@[simp] theorem State.setSched_images (v : List Slot) (s : State) : (s.setSched v).images = s.images := rfl
@[simp] theorem State.setSched_env (v : List Slot) (s : State) : (s.setSched v).env = { s.env with sched := v } := rfl
@[simp] theorem State.setSched_cfg (v : List Slot) (s : State) : (s.setSched v).cfg = s.cfg := rfl
@[simp] theorem State.setSched_free (v : List Slot) (s : State) : (s.setSched v).free = s.free := rfl

/-! `raise` -/

@[simp] theorem raise_data (c : Cause) (s : State) : (raise c s).data = s.data := rfl
@[simp] theorem raise_ctl (c : Cause) (s : State) : (raise c s).ctl = s.ctl := rfl
@[simp] theorem raise_run (c : Cause) (s : State) : (raise c s).run = .faulted := rfl
@[simp] theorem raise_seqPc (c : Cause) (s : State) : (raise c s).seqPc = s.seqPc := rfl
@[simp] theorem raise_cause (c : Cause) (s : State) : (raise c s).cause = c := rfl
@[simp] theorem raise_lastSt (c : Cause) (s : State) : (raise c s).lastSt = s.lastSt := rfl
@[simp] theorem raise_freshA (c : Cause) (s : State) : (raise c s).freshA = s.freshA := rfl
@[simp] theorem raise_freshB (c : Cause) (s : State) : (raise c s).freshB = s.freshB := rfl
@[simp] theorem raise_handle (c : Cause) (s : State) : (raise c s).handle = s.handle := rfl
@[simp] theorem raise_relPending (c : Cause) (s : State) : (raise c s).relPending = s.relPending := rfl
@[simp] theorem raise_rel (c : Cause) (s : State) : (raise c s).rel = s.rel := rfl
@[simp] theorem raise_imode (c : Cause) (s : State) : (raise c s).imode = s.imode := rfl
@[simp] theorem raise_loop (c : Cause) (s : State) : (raise c s).loop = .exitedFailure := rfl
@[simp] theorem raise_inputs (c : Cause) (s : State) : (raise c s).inputs = s.inputs := rfl
@[simp] theorem raise_resp (c : Cause) (s : State) : (raise c s).resp = if s.run = .busy then some ⟨c.code, 0x00#8⟩ else s.resp := rfl
@[simp] theorem raise_status (c : Cause) (s : State) : (raise c s).status = s.status := rfl
@[simp] theorem raise_trace (c : Cause) (s : State) : (raise c s).trace = if s.run = .busy then s.trace ++ [.resp ⟨c.code, 0x00#8⟩] else s.trace := rfl
@[simp] theorem raise_periph (c : Cause) (s : State) : (raise c s).periph = s.periph := rfl
@[simp] theorem raise_images (c : Cause) (s : State) : (raise c s).images = s.images := rfl
@[simp] theorem raise_env (c : Cause) (s : State) : (raise c s).env = s.env := rfl
@[simp] theorem raise_cfg (c : Cause) (s : State) : (raise c s).cfg = s.cfg := rfl
@[simp] theorem raise_free (c : Cause) (s : State) : (raise c s).free = s.free := rfl

/-! `newSession` -/

@[simp] theorem newSession_data (s : State) : (newSession s).data = Config.unspecByte s.free := rfl
@[simp] theorem newSession_ctl (s : State) : (newSession s).ctl = Config.unspecByte (s.free + 1) := rfl
@[simp] theorem newSession_run (s : State) : (newSession s).run = .unattached := rfl
@[simp] theorem newSession_seqPc (s : State) : (newSession s).seqPc = .empty := rfl
@[simp] theorem newSession_cause (s : State) : (newSession s).cause = .none := rfl
@[simp] theorem newSession_lastSt (s : State) : (newSession s).lastSt = Config.unspecNibble s.free := rfl
@[simp] theorem newSession_freshA (s : State) : (newSession s).freshA = Config.unspecBool s.free := rfl
@[simp] theorem newSession_freshB (s : State) : (newSession s).freshB = Config.unspecBool (s.free + 1) := rfl
@[simp] theorem newSession_handle (s : State) : (newSession s).handle = none := rfl
@[simp] theorem newSession_relPending (s : State) : (newSession s).relPending = 0 := rfl
@[simp] theorem newSession_rel (s : State) : (newSession s).rel = none := rfl
@[simp] theorem newSession_imode (s : State) : (newSession s).imode = .control := rfl
@[simp] theorem newSession_loop (s : State) : (newSession s).loop = .running := rfl
@[simp] theorem newSession_inputs (s : State) : (newSession s).inputs = s.inputs := rfl
@[simp] theorem newSession_resp (s : State) : (newSession s).resp = none := rfl
@[simp] theorem newSession_status (s : State) : (newSession s).status = none := rfl
@[simp] theorem newSession_trace (s : State) : (newSession s).trace = s.trace := rfl
@[simp] theorem newSession_periph (s : State) : (newSession s).periph = s.periph := rfl
@[simp] theorem newSession_images (s : State) : (newSession s).images = s.images := rfl
@[simp] theorem newSession_env (s : State) : (newSession s).env = s.env := rfl
@[simp] theorem newSession_cfg (s : State) : (newSession s).cfg = s.cfg := rfl
@[simp] theorem newSession_free (s : State) : (newSession s).free = s.free + 2 := rfl

/-! `respond` -/

@[simp] theorem respond_data (st : BitVec 4) (v : Byte) (s : State) : (respond st v s).data = s.data := rfl
@[simp] theorem respond_ctl (st : BitVec 4) (v : Byte) (s : State) : (respond st v s).ctl = s.ctl := rfl
@[simp] theorem respond_run (st : BitVec 4) (v : Byte) (s : State) : (respond st v s).run = .idle := rfl
@[simp] theorem respond_seqPc (st : BitVec 4) (v : Byte) (s : State) : (respond st v s).seqPc = .empty := rfl
@[simp] theorem respond_cause (st : BitVec 4) (v : Byte) (s : State) : (respond st v s).cause = s.cause := rfl
@[simp] theorem respond_lastSt (st : BitVec 4) (v : Byte) (s : State) : (respond st v s).lastSt = st := rfl
@[simp] theorem respond_freshA (st : BitVec 4) (v : Byte) (s : State) : (respond st v s).freshA = s.freshA := rfl
@[simp] theorem respond_freshB (st : BitVec 4) (v : Byte) (s : State) : (respond st v s).freshB = s.freshB := rfl
@[simp] theorem respond_handle (st : BitVec 4) (v : Byte) (s : State) : (respond st v s).handle = s.handle := rfl
@[simp] theorem respond_relPending (st : BitVec 4) (v : Byte) (s : State) : (respond st v s).relPending = s.relPending := rfl
@[simp] theorem respond_rel (st : BitVec 4) (v : Byte) (s : State) : (respond st v s).rel = s.rel := rfl
@[simp] theorem respond_imode (st : BitVec 4) (v : Byte) (s : State) : (respond st v s).imode = s.imode := rfl
@[simp] theorem respond_loop (st : BitVec 4) (v : Byte) (s : State) : (respond st v s).loop = s.loop := rfl
@[simp] theorem respond_inputs (st : BitVec 4) (v : Byte) (s : State) : (respond st v s).inputs = s.inputs := rfl
@[simp] theorem respond_resp (st : BitVec 4) (v : Byte) (s : State) : (respond st v s).resp = some ⟨st, v⟩ := rfl
@[simp] theorem respond_status (st : BitVec 4) (v : Byte) (s : State) : (respond st v s).status = s.status := rfl
@[simp] theorem respond_trace (st : BitVec 4) (v : Byte) (s : State) : (respond st v s).trace = s.trace ++ [.resp ⟨st, v⟩] := rfl
@[simp] theorem respond_periph (st : BitVec 4) (v : Byte) (s : State) : (respond st v s).periph = s.periph := rfl
@[simp] theorem respond_images (st : BitVec 4) (v : Byte) (s : State) : (respond st v s).images = s.images := rfl
@[simp] theorem respond_env (st : BitVec 4) (v : Byte) (s : State) : (respond st v s).env = s.env := rfl
@[simp] theorem respond_cfg (st : BitVec 4) (v : Byte) (s : State) : (respond st v s).cfg = s.cfg := rfl
@[simp] theorem respond_free (st : BitVec 4) (v : Byte) (s : State) : (respond st v s).free = s.free := rfl

/-! `setStatus` -/

@[simp] theorem State.setStatus_data (v : StatusTuple) (s : State) : (s.setStatus v).data = s.data := rfl
@[simp] theorem State.setStatus_ctl (v : StatusTuple) (s : State) : (s.setStatus v).ctl = s.ctl := rfl
@[simp] theorem State.setStatus_run (v : StatusTuple) (s : State) : (s.setStatus v).run = s.run := rfl
@[simp] theorem State.setStatus_seqPc (v : StatusTuple) (s : State) : (s.setStatus v).seqPc = s.seqPc := rfl
@[simp] theorem State.setStatus_cause (v : StatusTuple) (s : State) : (s.setStatus v).cause = s.cause := rfl
@[simp] theorem State.setStatus_lastSt (v : StatusTuple) (s : State) : (s.setStatus v).lastSt = s.lastSt := rfl
@[simp] theorem State.setStatus_freshA (v : StatusTuple) (s : State) : (s.setStatus v).freshA = s.freshA := rfl
@[simp] theorem State.setStatus_freshB (v : StatusTuple) (s : State) : (s.setStatus v).freshB = s.freshB := rfl
@[simp] theorem State.setStatus_handle (v : StatusTuple) (s : State) : (s.setStatus v).handle = s.handle := rfl
@[simp] theorem State.setStatus_relPending (v : StatusTuple) (s : State) : (s.setStatus v).relPending = s.relPending := rfl
@[simp] theorem State.setStatus_rel (v : StatusTuple) (s : State) : (s.setStatus v).rel = s.rel := rfl
@[simp] theorem State.setStatus_imode (v : StatusTuple) (s : State) : (s.setStatus v).imode = s.imode := rfl
@[simp] theorem State.setStatus_loop (v : StatusTuple) (s : State) : (s.setStatus v).loop = s.loop := rfl
@[simp] theorem State.setStatus_inputs (v : StatusTuple) (s : State) : (s.setStatus v).inputs = s.inputs := rfl
@[simp] theorem State.setStatus_resp (v : StatusTuple) (s : State) : (s.setStatus v).resp = s.resp := rfl
@[simp] theorem State.setStatus_status (v : StatusTuple) (s : State) : (s.setStatus v).status = some v := rfl
@[simp] theorem State.setStatus_trace (v : StatusTuple) (s : State) : (s.setStatus v).trace = s.trace ++ [.status v] := rfl
@[simp] theorem State.setStatus_periph (v : StatusTuple) (s : State) : (s.setStatus v).periph = s.periph := rfl
@[simp] theorem State.setStatus_images (v : StatusTuple) (s : State) : (s.setStatus v).images = s.images := rfl
@[simp] theorem State.setStatus_env (v : StatusTuple) (s : State) : (s.setStatus v).env = s.env := rfl
@[simp] theorem State.setStatus_cfg (v : StatusTuple) (s : State) : (s.setStatus v).cfg = s.cfg := rfl
@[simp] theorem State.setStatus_free (v : StatusTuple) (s : State) : (s.setStatus v).free = s.free := rfl

/-! `startSession` -/

@[simp] theorem startSession_data (s : State) : (startSession s).data = s.data := rfl
@[simp] theorem startSession_ctl (s : State) : (startSession s).ctl = s.ctl := rfl
@[simp] theorem startSession_run (s : State) : (startSession s).run = .idle := rfl
@[simp] theorem startSession_seqPc (s : State) : (startSession s).seqPc = .empty := rfl
@[simp] theorem startSession_cause (s : State) : (startSession s).cause = .none := rfl
@[simp] theorem startSession_lastSt (s : State) : (startSession s).lastSt = stOk := rfl
@[simp] theorem startSession_freshA (s : State) : (startSession s).freshA = s.freshA := rfl
@[simp] theorem startSession_freshB (s : State) : (startSession s).freshB = s.freshB := rfl
@[simp] theorem startSession_handle (s : State) : (startSession s).handle = none := rfl
@[simp] theorem startSession_relPending (s : State) : (startSession s).relPending = 0 := rfl
@[simp] theorem startSession_rel (s : State) : (startSession s).rel = none := rfl
@[simp] theorem startSession_imode (s : State) : (startSession s).imode = .control := rfl
@[simp] theorem startSession_loop (s : State) : (startSession s).loop = .running := rfl
@[simp] theorem startSession_inputs (s : State) : (startSession s).inputs = s.inputs := rfl
@[simp] theorem startSession_resp (s : State) : (startSession s).resp = s.resp := rfl
@[simp] theorem startSession_status (s : State) : (startSession s).status = s.status := rfl
@[simp] theorem startSession_trace (s : State) : (startSession s).trace = s.trace := rfl
@[simp] theorem startSession_periph (s : State) : (startSession s).periph = s.periph := rfl
@[simp] theorem startSession_images (s : State) : (startSession s).images = s.images := rfl
@[simp] theorem startSession_env (s : State) : (startSession s).env = s.env := rfl
@[simp] theorem startSession_cfg (s : State) : (startSession s).cfg = s.cfg := rfl
@[simp] theorem startSession_free (s : State) : (startSession s).free = s.free := rfl

end Sys2Proof.Machine
end

