-- ==== Sys2Proof/Laws/Memory.lean ====
section
/-! SUPPORT. The port space: read after write, and everything one access can do (rules R43 to R45). Four named byte
registers, each always present, have one form only, so equal port spaces are equal data. -/

namespace Sys2Proof.Machine

@[simp] theorem Periph.get_set_same (p : Periph) (r : PortReg) (v : Byte) : (p.set r v).get r = v := by
  cases r <;> rfl

theorem Periph.get_set_other (p : Periph) {r q : PortReg} (v : Byte) (h : q ≠ r) : (p.set r v).get q = p.get q := by
  cases r <;> cases q <;> first | rfl | exact absurd rfl h

/-- Everything a read can do. -/
theorem memRead_cases (ag : Agent) (r : PortReg) (k : Byte → State → State) (s : State) :
    (s.pioReply = .ok ∧
      memRead ag r k s = k (s.periph.get r) (s.popPio.log (.read ag r (s.periph.get r)))) ∨
    (∃ left, s.pioReply = .fail left ∧
      memRead ag r k s = raise (accessFault r .read) (s.popPio.log (.readFail ag r))) := by
  cases h : s.pioReply with
  | ok => exact .inl ⟨rfl, by simp [memRead, h]⟩
  | fail left => exact .inr ⟨left, rfl, by simp [memRead, h]⟩

/-- Everything a write can do. -/
theorem memWrite_cases (ag : Agent) (r : PortReg) (v : Byte) (k : State → State) (s : State) :
    (s.pioReply = .ok ∧ memWrite ag r v k s = k ((s.popPio.setReg r v).log (.write ag r v))) ∨
    (∃ left, s.pioReply = .fail left ∧
      memWrite ag r v k s = raise (accessFault r .write) ((s.popPio.setReg r left).log (.writeFail ag r v))) := by
  cases h : s.pioReply with
  | ok => exact .inl ⟨rfl, by simp [memWrite, h]⟩
  | fail left => exact .inr ⟨left, rfl, by simp [memWrite, h]⟩

/-- Everything the read of the old byte can do: none from the mirror, a read of port B from the port. -/
theorem readOld_cases (ag : Agent) (k : Byte → State → State) (s : State) :
    (s.cfg.rmwSource = .mirror ∧ readOld ag k s = k s.ctl s) ∨
    (s.cfg.rmwSource = .port ∧ readOld ag k s = memRead ag .portB k s) := by
  cases h : s.cfg.rmwSource with
  | mirror => exact .inl ⟨rfl, by simp [readOld, h]⟩
  | port => exact .inr ⟨rfl, by simp [readOld, h]⟩

end Sys2Proof.Machine
end

