-- ==== Sys2Proof/Laws/Ops.lean ====
section
/-! SUPPORT. One lemma for each shared operation that says everything it can do, in the form the invariants use: a
property that each part keeps is kept by the whole. -/

namespace Sys2Proof.Machine

/-- A property of states that the parts of the machine keep inside a live session. `W` bounds what the masked
read-modify-writes may do. -/
structure Kept (P : State → Prop) (W : Byte → Byte → Prop) : Prop where
  /-- A read of a port register, done or failed. -/
  read : ∀ ag r v s, P s → P (s.popPio.log (.read ag r v))
  readFail : ∀ ag r s, P s → P (raise (accessFault r .read) (s.popPio.log (.readFail ag r)))
  /-- A setter's write of port B together with its mirror, or its failure. -/
  setter : ∀ ag mask bits old s, W mask bits → P s →
    P (State.setCtl (maskedByte old mask bits)
      ((s.popPio.setReg .portB (maskedByte old mask bits)).log (.write ag .portB (maskedByte old mask bits))))
  setterFail : ∀ ag left v s, P s →
    P (raise (.portIOError .b .write) ((s.popPio.setReg .portB left).log (.writeFail ag .portB v)))
  /-- REL's own bookkeeping. -/
  rel : ∀ p s, P s → P (s.setRel p)
  relPending : ∀ n s, P s → P (s.setRelPending n)
  sched : ∀ l s, P s → P (s.setSched l)

/-- One atomic setter keeps what its parts keep. -/
theorem Kept.setFieldAtomic {P : State → Prop} {W : Byte → Byte → Prop} (K : Kept P W) (ag : Agent)
    {mask bits : Byte} (hW : W mask bits) {s : State} (h : P s) : P (setFieldAtomic ag mask bits s) := by
  have wr : ∀ old t, P t →
      P (memWrite ag .portB (maskedByte old mask bits) (State.setCtl (maskedByte old mask bits)) t) := by
    intro old t ht
    obtain ⟨-, e⟩ | ⟨left, -, e⟩ := memWrite_cases ag .portB (maskedByte old mask bits)
      (State.setCtl (maskedByte old mask bits)) t
    · rw [e]; exact K.setter _ _ _ _ _ hW ht
    · rw [e]; exact K.setterFail _ _ _ _ ht
  unfold Machine.setFieldAtomic
  obtain ⟨-, e⟩ | ⟨-, e⟩ := readOld_cases ag
    (fun old => memWrite ag .portB (maskedByte old mask bits) (State.setCtl (maskedByte old mask bits))) s
  · rw [e]; exact wr _ _ h
  · rw [e]
    obtain ⟨-, e⟩ | ⟨left, -, e⟩ := memRead_cases ag .portB
      (fun old => memWrite ag .portB (maskedByte old mask bits) (State.setCtl (maskedByte old mask bits))) s
    · rw [e]; exact wr _ _ (K.read _ _ _ _ h)
    · rw [e]; exact K.readFail _ _ _ h

/-- An atomic step of REL, with atomic setters, keeps what a setter of its two lines keeps. -/
theorem Kept.relStep {P : State → Prop} {W : Byte → Byte → Prop} (K : Kept P W)
    (hW : ∀ l : Line, W l.mask l.mask) {s : State} (hc : s.cfg.rmwAtomic = true) (h : P s) : P (relStep s) := by
  have act : ∀ p t, t.cfg.rmwAtomic = true → P t → P (relAct p t) := by
    intro p t hc ht
    have h1 := K.setFieldAtomic .rel (hW p.line) ht
    simp only [relAct, hc, if_true, relNext]
    split
    · exact h1
    · split <;> exact K.rel _ _ h1
  unfold Machine.relStep
  split
  · split
    · exact act _ _ hc h
    · exact act _ _ hc (K.rel _ _ (K.relPending _ _ h))
    · exact h
  · exact h

@[simp] theorem memWrite_cfg (ag : Agent) (r : PortReg) (v : Byte) (k : State → State)
    (hk : ∀ s, (k s).cfg = s.cfg) (s : State) : (memWrite ag r v k s).cfg = s.cfg := by
  obtain ⟨-, e⟩ | ⟨left, -, e⟩ := memWrite_cases ag r v k s <;> simp [e, hk]

theorem memRead_cfg (ag : Agent) (r : PortReg) (k : Byte → State → State)
    (hk : ∀ v s, (k v s).cfg = s.cfg) (s : State) : (memRead ag r k s).cfg = s.cfg := by
  obtain ⟨-, e⟩ | ⟨left, -, e⟩ := memRead_cases ag r k s <;> simp [e, hk]

theorem readOld_cfg (ag : Agent) (k : Byte → State → State)
    (hk : ∀ v s, (k v s).cfg = s.cfg) (s : State) : (readOld ag k s).cfg = s.cfg := by
  obtain ⟨-, e⟩ | ⟨-, e⟩ := readOld_cases ag k s
  · rw [e, hk]
  · rw [e, memRead_cfg _ _ _ hk]

theorem setFieldAtomic_cfg (ag : Agent) (mask bits : Byte) (s : State) :
    (setFieldAtomic ag mask bits s).cfg = s.cfg :=
  readOld_cfg ag _ (fun old s => memWrite_cfg ag .portB _ (State.setCtl (maskedByte old mask bits)) (fun _ => rfl) s) s

/-- No step of REL changes the parameters. -/
theorem relStep_cfg (s : State) : (relStep s).cfg = s.cfg := by
  have nx : ∀ l t, (relNext l t).cfg = t.cfg := by
    intro l t; unfold relNext; split
    · rfl
    · split <;> rfl
  have act : ∀ p t, (relAct p t).cfg = t.cfg := by
    intro p t
    unfold relAct
    split
    · rw [nx, setFieldAtomic_cfg]
    · split
      · exact readOld_cfg .rel (fun old => State.setRel (some ⟨p.line, .haveOld old⟩)) (fun _ _ => rfl) t
      · exact memWrite_cfg _ _ _ (State.setRel _) (fun _ => rfl) t
      · rw [nx]; rfl
  unfold relStep
  split
  · split <;> simp [act]
  · rfl

theorem relSteps_cfg (n : Nat) (s : State) : (relSteps n s).cfg = s.cfg := by
  induction n generalizing s with
  | zero => rfl
  | succ n ih => rw [relSteps, ih, relStep_cfg]

theorem interleave_cfg (s : State) : (interleave s).cfg = s.cfg := by
  have hd : ∀ a n t, (deliver a n t).cfg = t.cfg := fun a n t => by rw [deliver, relSteps_cfg]; rfl
  unfold interleave
  split
  · rfl
  · dsimp only
    split
    · unfold whileLive; split <;> simp [hd]
    · rw [hd]; rfl

theorem Kept.relSteps {P : State → Prop} {W : Byte → Byte → Prop} (K : Kept P W)
    (hW : ∀ l : Line, W l.mask l.mask) (n : Nat) {s : State} (hc : s.cfg.rmwAtomic = true) (h : P s) :
    P (relSteps n s) := by
  induction n generalizing s with
  | zero => exact h
  | succ n ih => exact ih (by rw [relStep_cfg]; exact hc) (K.relStep hW hc h)

/-- With nothing pending and no event begun, REL does nothing. -/
theorem relStep_nothing {s : State} (hp : s.relPending = 0) (hr : s.rel = none) : relStep s = s := by
  unfold relStep
  split
  · rw [hr, hp]
  · rfl

theorem relSteps_nothing (n : Nat) {s : State} (hp : s.relPending = 0) (hr : s.rel = none) : relSteps n s = s := by
  induction n with
  | zero => rfl
  | succ n ih => rw [relSteps, relStep_nothing hp hr, ih]

/-- Outside IDLE and BUSY REL does nothing (R146). -/
theorem relStep_notLive {s : State} (h1 : s.run ≠ .idle) (h2 : s.run ≠ .busy) : relStep s = s := by
  simp [relStep, h1, h2]

theorem relSteps_notLive (n : Nat) {s : State} (h1 : s.run ≠ .idle) (h2 : s.run ≠ .busy) : relSteps n s = s := by
  induction n with
  | zero => rfl
  | succ n ih => rw [relSteps, relStep_notLive h1 h2, ih]

theorem whileBusy_busy {f : State → State} {s : State} (h : s.run = .busy) : whileBusy f s = f s := if_pos h

theorem whileBusy_done {f : State → State} {s : State} (h : s.run ≠ .busy) : whileBusy f s = s := if_neg h

theorem whileBusy_keeps {P : State → Prop} {f : State → State} {s : State} (hf : s.run = .busy → P s → P (f s))
    (h : P s) : P (whileBusy f s) := by
  unfold whileBusy
  split
  · exact hf ‹_› h
  · exact h

theorem whileIdle_idle {f : State → State} {s : State} (h : s.run = .idle) : whileIdle f s = f s := if_pos h

theorem whileIdle_keeps {P : State → Prop} {f : State → State} {s : State} (hf : s.run = .idle → P s → P (f s))
    (h : P s) : P (whileIdle f s) := by
  unfold whileIdle
  split
  · exact hf ‹_› h
  · exact h

theorem whileLive_keeps {P : State → Prop} {f : State → State} {s : State}
    (hf : s.run = .idle ∨ s.run = .busy → P s → P (f s)) (h : P s) : P (whileLive f s) := by
  unfold whileLive
  split
  · exact hf ‹_› h
  · exact h

/-- The host goes on when the point before leaves FPB idle. -/
theorem goingOn_idle {f : State → State} {s t : State} (hs : s.run = .idle) (h : interleave s = t) (hi : t.run = .idle) :
    goingOn f s = f t := by
  rw [goingOn, whileIdle_idle hs, h, whileIdle_idle hi]

theorem goingOn_keeps {P : State → Prop} {f : State → State} {s : State}
    (hint : s.run = .idle → P s → P (interleave s)) (hf : ∀ t, t.run = .idle → P t → P (f t)) (h : P s) :
    P (goingOn f s) :=
  whileIdle_keeps (f := fun s => whileIdle f (interleave s))
    (fun hs h => whileIdle_keeps (fun hi h => hf _ hi h) (hint hs h)) h

/-- Everything a point of interleaving can do. -/
theorem interleave_cases (s : State) :
    (s.env.sched = [] ∧ interleave s = s) ∨
    (∃ sl rest, s.env.sched = sl :: rest ∧ sl.kill = true ∧
      interleave s = whileLive newSession (deliver sl.arrivals sl.relSteps (s.setSched rest))) ∨
    (∃ sl rest, s.env.sched = sl :: rest ∧ sl.kill = false ∧
      interleave s = deliver sl.arrivals sl.relSteps (s.setSched rest)) := by
  cases h : s.env.sched with
  | nil => exact .inl ⟨rfl, by simp [interleave, h]⟩
  | cons sl rest =>
    cases hk : sl.kill with
    | true => exact .inr (.inl ⟨sl, rest, rfl, hk, by simp [interleave, h, hk]⟩)
    | false => exact .inr (.inr ⟨sl, rest, rfl, hk, by simp [interleave, h, hk]⟩)

/-- Events delivered and steps of REL keep what REL's steps keep. -/
theorem Kept.deliver {P : State → Prop} {W : Byte → Byte → Prop} (K : Kept P W)
    (hW : ∀ l : Line, W l.mask l.mask) (a n : Nat) {s : State} (hc : s.cfg.rmwAtomic = true) (h : P s) :
    P (deliver a n s) := K.relSteps hW n hc (K.relPending _ _ h)

/-- A point of interleaving keeps what REL's steps and a new session keep. -/
theorem Kept.interleave {P : State → Prop} {W : Byte → Byte → Prop} (K : Kept P W)
    (hW : ∀ l : Line, W l.mask l.mask) (hnew : ∀ s, P s → P (newSession s))
    {s : State} (hc : s.cfg.rmwAtomic = true) (h : P s) : P (interleave s) := by
  obtain ⟨-, e⟩ | ⟨sl, rest, -, -, e⟩ | ⟨sl, rest, -, -, e⟩ := interleave_cases s
  · rw [e]; exact h
  · rw [e]; exact whileLive_keeps (fun _ h => hnew _ h) (K.deliver hW _ _ hc (K.sched _ _ h))
  · rw [e]; exact K.deliver hW _ _ hc (K.sched _ _ h)

/-- SEQ at an action, when the point before it leaves the command in progress. -/
theorem seqStep_go {s t : State} {pos : SeqPc} {act : Action} (hb : s.run = .busy)
    (ht : interleave (s.setSeqPc pos) = t) (htb : t.run = .busy) : seqStep s ⟨pos, act⟩ = act.perform t := by
  rw [seqStep, whileBusy_busy hb, show interleave (s.setSeqPc (Micro.mk pos act).pos) = t from ht, whileBusy_busy htb]

/-- In IDLE a command or symbol is taken. -/
theorem whenIdle_idle {s : State} (h : s.run = .idle) (k : State → State) : whenIdle k s = .next (k s) := by
  simp [whenIdle, h]

/-- In BUSY it waits. -/
theorem whenIdle_busy {s : State} (h : s.run = .busy) (k : State → State) : whenIdle k s = .next s := by
  simp [whenIdle, h]

/-- Elsewhere it is not taken. -/
theorem whenIdle_notLive {s : State} (h1 : s.run ≠ .idle) (h2 : s.run ≠ .busy) (k : State → State) :
    whenIdle k s = .fault (.notTaken s.run) := by
  unfold whenIdle
  split <;> simp_all

/-- Everything an instruction that answers a next state has done: it was taken, or it waits. -/
theorem whenIdle_next {k : State → State} {s t : State} (h : whenIdle k s = .next t) :
    (s.run = .idle ∧ t = k s) ∨ (s.run = .busy ∧ t = s) := by
  unfold whenIdle at h
  split at h
  · exact .inl ⟨‹_›, by simpa using h.symm⟩
  · exact .inr ⟨‹_›, by simpa using h.symm⟩
  all_goals cases h

/-- A symbol that is taken: its effect, then the status. -/
theorem symbol_idle {s : State} (h : s.run = .idle) (k : State → State) : symbol k s = .next (renderStatus (k s)) :=
  whenIdle_idle h fun s => renderStatus (k s)

/-- A fault or a kill ends a command: the actions left do nothing (R168). -/
theorem foldl_seqStep_over (ms : List Micro) {s : State} (h : s.run ≠ .busy) : ms.foldl seqStep s = s := by
  induction ms generalizing s with
  | nil => rfl
  | cons m ms ih => rw [List.foldl_cons, seqStep, whileBusy_done h, ih h]

/-- A whole command's actions keep what a position change, an interleaving and each of its actions keep. -/
theorem seqRun_keeps {P : State → Prop} (ms : List Micro)
    (hpos : ∀ s pc, P s → P (s.setSeqPc pc))
    (hint : ∀ s, s.run = .busy → P s → P (interleave s))
    (hact : ∀ m ∈ ms, ∀ s, s.run = .busy → P s → P (m.act.perform s))
    {s : State} (h : P s) : P (seqRun ms s) := by
  have fold : ∀ l : List Micro, (∀ m ∈ l, m ∈ ms) → ∀ t, P t → P (l.foldl seqStep t) := by
    intro l
    induction l with
    | nil => intro _ t ht; exact ht
    | cons m l ih =>
      intro hl t ht
      refine ih (fun m hm => hl m (List.mem_cons_of_mem _ hm)) _ ?_
      refine whileBusy_keeps (fun hb ht => ?_) ht
      exact whileBusy_keeps (fun hb' h' => hact m (hl m (List.mem_cons_self ..)) _ hb' h') (hint _ hb (hpos _ _ ht))
  exact whileBusy_keeps (fun hb h' => hint _ hb h') (fold ms (fun _ h => h) s h)

end Sys2Proof.Machine
end

