-- ==== Sys2Proof/Laws/Calm.lean ====
section
/-! SUPPORT. What a command does when nothing fails and nothing interleaves: its actions are a fold over the bus, and
every other field is as at the start. -/

namespace Sys2Proof.Safety

open Sys2Proof.Machine

/-- The effect of one action on the bus. -/
def actBus (b : Bus) (m : Micro) : Bus :=
  match m.act with
  | .setField mask bits => b.putB (maskedByte b.ctl mask bits)
  | .setData v => b.putA v
  | .holdBegin => b.note (.holdBegin Config.tPulseMs)
  | .holdEnd => b.note .holdEnd
  | .imgOpen k => b.note (.imgOpen k)
  | .imgNext k (some x) => b.note (.imgByte k x)
  | .imgNext k none => b.note (.imgEof k)

/-- The effect of one action on the image handle. -/
def actHandle (h : Option ImageId) (m : Micro) : Option ImageId :=
  match m.act with
  | .imgOpen k => some k
  | .imgNext _ none => none
  | .setField _ _ | .setData _ | .holdBegin | .holdEnd | .imgNext _ (some _) => h

/-- `s` inside a command, with bus `b`. -/
def running (s : State) (b : Bus) (e : Env) (pc : SeqPc) (h : Option ImageId) : State :=
  { withBus s b with run := .busy, env := e, seqPc := pc, handle := h }

/-- Operations one after another. -/
theorem runAll_cons {i : Instr} {is : List Instr} {s t : State} (h : exec i s = .next t) :
    runAll (i :: is) s = runAll is t := by simp only [runAll, h]

/-! Calm environments. -/

theorem calm_popPio {e : Env} (h : Calm e) : Calm { e with pio := e.pio.tail } :=
  ⟨⟨fun r hr => h.1.1 r (List.mem_of_mem_tail hr), h.1.2⟩, h.2⟩

theorem calm_popImg {e : Env} (h : Calm e) : Calm { e with img := e.img.tail } :=
  ⟨⟨h.1.1, fun r hr => h.1.2 r (List.mem_of_mem_tail hr)⟩, h.2⟩

theorem pioReply_reliable {s : State} (h : Reliable s.env) : s.pioReply = .ok := by
  unfold State.pioReply
  cases hp : s.env.pio with
  | nil => rfl
  | cons r l => exact h.1 r (by simp [hp])

theorem imgReply_reliable {s : State} (h : Reliable s.env) : s.imgReply = .ok := by
  unfold State.imgReply
  cases hp : s.env.img with
  | nil => rfl
  | cons r l => exact h.2 r (by simp [hp])

/-- A calm point of interleaving only uses up its slot. -/
theorem interleave_calm {s : State} (h : Calm s.env) :
    ∃ e, Calm e ∧ interleave s = { s with env := e } := by
  cases hs : s.env.sched with
  | nil => exact ⟨s.env, h, by simp [interleave, hs]⟩
  | cons sl rest =>
    have hq := h.2 sl (by simp [hs])
    subst hq
    refine ⟨{ s.env with sched := rest }, ⟨h.1, fun x hx => h.2 x (by simp [hs, hx])⟩, ?_⟩
    simp [interleave, hs, deliver, relSteps, State.setSched, State.setRelPending]

/-- A getter under calm, under any parameters: the response, and nothing else (R81 to R89). -/
theorem getterCommand_calm {s : State} (hc : Calm s.env) {val : State → Byte}
    (hv : ∀ t u : State, t.data = u.data → t.ctl = u.ctl → val t = val u) :
    ∃ e, Calm e ∧ getterCommand val s = answered s e 0 (val s) := by
  obtain ⟨e, he, hl⟩ := interleave_calm (s := s.setRun .busy) hc
  refine ⟨e, he, ?_⟩
  have hrun : seqRun [] (s.setRun .busy) = { s.setRun .busy with env := e } := by
    rw [seqRun, List.foldl_nil, whileBusy_busy (s := s.setRun .busy) rfl, hl]
  rw [getterCommand, command, hrun, whileBusy_busy rfl, hv { s.setRun .busy with env := e } s rfl rfl]
  rfl

/-- The host goes on with a symbol under calm. -/
theorem goingOn_calm {s : State} (hi : s.run = .idle) (hc : Calm s.env) :
    ∃ e, Calm e ∧ ∀ f, goingOn f s = f { s with env := e } := by
  obtain ⟨e, he, hl⟩ := interleave_calm hc
  exact ⟨e, he, fun f => goingOn_idle hi hl hi⟩

/-- A getter issued under calm: what follows has its value. -/
theorem asking_calm {s : State} (hc : Calm s.env) {val : State → Byte}
    (hv : ∀ t u : State, t.data = u.data → t.ctl = u.ctl → val t = val u) :
    ∃ e, Calm e ∧ ∀ k, asking (getterCommand val) k s = k (val s) (answered s e 0 (val s)) := by
  obtain ⟨e1, h1, g⟩ := getterCommand_calm hc hv
  obtain ⟨e2, h2, hg⟩ := goingOn_calm (s := answered s e1 0 (val s)) rfl h1
  exact ⟨e2, h2, fun k => by rw [asking, g, hg]; rfl⟩

/-- The status rendered under calm, under any parameters (R148). -/
theorem renderStatus_calm {s : State} (hi : s.run = .idle) (hc : Calm s.env) :
    ∃ e, Calm e ∧ renderStatus s = { rendered s with env := e } := by
  have hm : ∀ c : Byte, modeOf (decMode c) = modeOf c := by decide
  have hp : ∀ c : Byte, (boolByte (decMp c)).getLsbD 0 = c.getLsbD 0 := by decide
  have hb : ∀ c : Byte, boolByte (decMp c) = if c.getLsbD 0 then 0x01#8 else 0x00#8 := by decide
  obtain ⟨e0, h0, g0⟩ := goingOn_calm hi hc
  obtain ⟨e1, h1, g1⟩ := asking_calm (s := { s with env := e0 }) h0 (val := fun s => decMode s.ctl)
    (fun _ _ _ h => by rw [h])
  let s1 : State := answered { s with env := e0 } e1 0 (decMode s.ctl)
  obtain ⟨e2, h2, g2⟩ := asking_calm (s := s1) h1 (val := fun s => boolByte (decMp s.ctl)) (fun _ _ _ h => by rw [h])
  let s2 : State := answered s1 e2 0 (boolByte (decMp s1.ctl))
  obtain ⟨e3, h3, g3⟩ := asking_calm (s := s2) h2 (val := fun s => s.data) (fun _ _ h _ => h)
  refine ⟨e3, h3, ?_⟩
  rw [renderStatus, g0, getModeCommand, g1, getMpCommand, g2, getDataCommand, g3]
  simp [s1, s2, answered, rendered, tupleOf, State.setStatus, hm, hi]
  exact ⟨hp _, rfl, hb _, hp _⟩

/-- A symbol under calm: its effect, and then the status. -/
theorem symbol_calm {s t : State} {k : State → State} {e : Env} {st : BitVec 4} {v : Byte} (hi : s.run = .idle)
    (he : Calm e) (hk : k s = answered t e st v) :
    ∃ e', Calm e' ∧ symbol k s = .next (rendered (answered t e' st v)) := by
  obtain ⟨e', h', hr⟩ := renderStatus_calm (s := answered t e st v) rfl he
  exact ⟨e', h', by rw [symbol_idle hi, hk, hr]; rfl⟩

/-- One action under calm. -/
theorem perform_calm {s : State} (hd : s.cfg = Params.decided) (b : Bus) {e : Env} (he : Calm e) (h : Option ImageId)
    (m : Micro) : ∃ e', Calm e' ∧
      m.act.perform (running s b e m.pos h) = running s (actBus b m) e' m.pos (actHandle h m) := by
  have hp : (running s b e m.pos h).pioReply = .ok := pioReply_reliable he.1
  have hi : (running s b e m.pos h).imgReply = .ok := imgReply_reliable he.1
  obtain ⟨pc, act⟩ := m
  cases act with
  | setField mask bits =>
    refine ⟨_, calm_popPio he, ?_⟩
    have hc : (running s b e pc h).cfg = Params.decided := hd
    simp only [Action.perform, setField, setFieldAtomic, readOld, hc, Params.decided, if_true, memWrite, hp]
    rfl
  | setData v =>
    refine ⟨_, calm_popPio he, ?_⟩
    simp only [Action.perform, writeData, memWrite, hp]
    rfl
  | holdBegin => exact ⟨e, he, rfl⟩
  | holdEnd => exact ⟨e, he, rfl⟩
  | imgOpen k =>
    refine ⟨_, calm_popImg he, ?_⟩
    simp only [Action.perform, openImage, hi]
    rfl
  | imgNext k x =>
    refine ⟨_, calm_popImg he, ?_⟩
    cases x <;> (simp only [Action.perform, nextImageByte, hi]; rfl)

theorem seqStep_calm {s : State} (hd : s.cfg = Params.decided) (b : Bus) {e : Env} (he : Calm e) (pc : SeqPc)
    (h : Option ImageId) (m : Micro) : ∃ e', Calm e' ∧
      seqStep (running s b e pc h) m = running s (actBus b m) e' m.pos (actHandle h m) := by
  obtain ⟨e1, h1, hi⟩ := interleave_calm (s := (running s b e pc h).setSeqPc m.pos) he
  obtain ⟨e2, h2, hp⟩ := perform_calm hd b h1 h m
  refine ⟨e2, h2, ?_⟩
  rw [← hp]
  have hi' : interleave ((running s b e pc h).setSeqPc m.pos) = running s b e1 m.pos h := hi
  simp only [seqStep, whileBusy]
  rw [hi']
  rfl

/-- A command's actions under calm are a fold over the bus. -/
theorem foldl_seqStep_calm {s : State} (hd : s.cfg = Params.decided) (ms : List Micro) (b : Bus) {e : Env}
    (he : Calm e) (pc : SeqPc) (h : Option ImageId) : ∃ e' pc', Calm e' ∧
      ms.foldl seqStep (running s b e pc h) = running s (ms.foldl actBus b) e' pc' (ms.foldl actHandle h) := by
  induction ms generalizing b e pc h with
  | nil => exact ⟨e, pc, he, rfl⟩
  | cons m ms ih =>
    obtain ⟨e1, h1, hs⟩ := seqStep_calm hd b he pc h m
    obtain ⟨e2, pc2, h2, hr⟩ := ih (actBus b m) h1 m.pos (actHandle h m)
    exact ⟨e2, pc2, h2, by rw [List.foldl_cons, hs, hr]; rfl⟩

/-- A whole command under calm: the bus its actions fold to, and the response. -/
theorem command_calm {s : State} (hr : Ready s) (ms : List Micro) (val : State → Byte)
    (hv : ∀ t u : State, t.data = u.data → t.ctl = u.ctl → val t = val u) :
    ∃ e, Calm e ∧ command ms val s =
      answered { withBus s (ms.foldl actBus (busOf s)) with handle := ms.foldl actHandle s.handle } e 0
        (val { withBus s (ms.foldl actBus (busOf s)) with handle := ms.foldl actHandle s.handle }) := by
  obtain ⟨hi, hd, hc⟩ := hr
  have h0 : s.setRun .busy = running s (busOf s) s.env s.seqPc s.handle := rfl
  obtain ⟨e1, pc1, h1, hf⟩ := foldl_seqStep_calm hd ms (busOf s) hc s.seqPc s.handle
  obtain ⟨e2, h2, hl⟩ := interleave_calm (s := running s (ms.foldl actBus (busOf s)) e1 pc1 (ms.foldl actHandle s.handle)) h1
  refine ⟨e2, h2, ?_⟩
  have hseq : seqRun ms (s.setRun .busy) =
      running s (ms.foldl actBus (busOf s)) e2 pc1 (ms.foldl actHandle s.handle) := by
    rw [seqRun, h0, hf, whileBusy_busy rfl, hl]; rfl
  rw [command, hseq, whileBusy_busy rfl]
  rw [hv (running s (ms.foldl actBus (busOf s)) e2 pc1 (ms.foldl actHandle s.handle))
    { withBus s (ms.foldl actBus (busOf s)) with handle := ms.foldl actHandle s.handle } rfl rfl]
  rfl

end Sys2Proof.Safety
end

