-- ==== Sys2Proof/Laws/Closed.lean ====
section
/-! SUPPORT. Every update an instruction is made of, under either value of the parameters: a property that each update
keeps is kept by the whole instruction. An invariant is proved by giving a `Closed`. -/

namespace Sys2Proof.Machine

/-- A property that each update of a live session keeps, port B and REL side. -/
structure Closed (P : State → Prop) : Prop where
  popPio : ∀ s, P s → P s.popPio
  log : ∀ e s, P s → P (s.log e)
  setPortB : ∀ v s, P s → P (s.setReg .portB v)
  setCtl : ∀ v s, P s → P (s.setCtl v)
  setRel : ∀ p s, P s → P (s.setRel p)
  setRelPending : ∀ n s, P s → P (s.setRelPending n)
  raise : ∀ c s, c ≠ .none → P s → P (raise c s)
  /-- A slot of the schedule is used up. -/
  popSched : ∀ sl rest s, s.env.sched = sl :: rest → P s → P (s.setSched rest)
  /-- The process is killed at the end of a point between two steps, after some steps of REL. -/
  kill : ∀ sl rest s t, s.env.sched = sl :: rest → sl.kill = true → P s → t.run = .idle ∨ t.run = .busy → P t →
    P (newSession t)
  /-- A command is taken, comes to a position, and ends. -/
  busy : ∀ s, s.run = .idle → P s → P (s.setRun .busy)
  pos : ∀ pc s, s.run = .busy → pc.frames.length ≤ 3 → P s → P (s.setSeqPc pc)
  respond : ∀ st v s, st = 0 ∨ st = 2 ∨ st = 6 → s.run = .idle ∨ s.run = .busy → P s → P (respond st v s)
  setStatus : ∀ v s, P s → P (s.setStatus v)

/-- The same with port A and the images. -/
structure ClosedData (P : State → Prop) : Prop extends Closed P where
  setPortA : ∀ v s, P s → P (s.setReg .portA v)
  setData : ∀ v s, P s → P (s.setData v)
  popImg : ∀ s, P s → P s.popImg
  setHandle : ∀ h s, P s → P (s.setHandle h)

variable {P : State → Prop}

theorem accessFault_ne_none (r : PortReg) (d : Dir) : accessFault r d ≠ .none := by cases r <;> simp [accessFault]

theorem Closed.memRead (K : Closed P) {ag : Agent} {r : PortReg} {k : Byte → State → State}
    (hk : ∀ v s, P s → P (k v s)) {s : State} (h : P s) : P (memRead ag r k s) := by
  obtain ⟨-, e⟩ | ⟨left, -, e⟩ := memRead_cases ag r k s
  · rw [e]; exact hk _ _ (K.log _ _ (K.popPio _ h))
  · rw [e]; exact K.raise _ _ (accessFault_ne_none _ _) (K.log _ _ (K.popPio _ h))

theorem Closed.memWrite (K : Closed P) {ag : Agent} {r : PortReg} {v : Byte} {k : State → State}
    (hr : ∀ v s, P s → P (s.setReg r v)) (hk : ∀ s, P s → P (k s)) {s : State} (h : P s) :
    P (memWrite ag r v k s) := by
  obtain ⟨-, e⟩ | ⟨left, -, e⟩ := memWrite_cases ag r v k s
  · rw [e]; exact hk _ (K.log _ _ (hr _ _ (K.popPio _ h)))
  · rw [e]; exact K.raise _ _ (accessFault_ne_none _ _) (K.log _ _ (hr _ _ (K.popPio _ h)))

theorem Closed.readOld (K : Closed P) {ag : Agent} {k : Byte → State → State}
    (hk : ∀ v s, P s → P (k v s)) {s : State} (h : P s) : P (readOld ag k s) := by
  obtain ⟨-, e⟩ | ⟨-, e⟩ := readOld_cases ag k s
  · rw [e]; exact hk _ _ h
  · rw [e]; exact K.memRead hk h

theorem Closed.setFieldAtomic (K : Closed P) (ag : Agent) (mask bits : Byte) {s : State} (h : P s) :
    P (setFieldAtomic ag mask bits s) :=
  K.readOld (fun _ _ h => K.memWrite K.setPortB (K.setCtl _) h) h

theorem Closed.relNext (K : Closed P) (l : Line) {s : State} (h : P s) : P (relNext l s) := by
  unfold Machine.relNext
  split
  · exact h
  · split <;> exact K.setRel _ _ h

theorem Closed.relAct (K : Closed P) (p : RelPos) {s : State} (h : P s) : P (relAct p s) := by
  unfold Machine.relAct
  split
  · exact K.relNext _ (K.setFieldAtomic _ _ _ h)
  · split
    · exact K.readOld (fun _ _ h => K.setRel _ _ h) h
    · exact K.memWrite K.setPortB (K.setRel _) h
    · exact K.relNext _ (K.setCtl _ _ h)

theorem Closed.relStep (K : Closed P) {s : State} (h : P s) : P (relStep s) := by
  unfold Machine.relStep
  split
  · split
    · exact K.relAct _ h
    · exact K.relAct _ (K.setRel _ _ (K.setRelPending _ _ h))
    · exact h
  · exact h

theorem Closed.relSteps (K : Closed P) (n : Nat) {s : State} (h : P s) : P (relSteps n s) := by
  induction n generalizing s with
  | zero => exact h
  | succ n ih => exact ih (K.relStep h)

theorem Closed.deliver (K : Closed P) (a n : Nat) {s : State} (h : P s) : P (deliver a n s) :=
  K.relSteps n (K.setRelPending _ _ h)

theorem Closed.interleave (K : Closed P) {s : State} (h : P s) : P (interleave s) := by
  obtain ⟨-, e⟩ | ⟨sl, rest, hs, hk, e⟩ | ⟨sl, rest, hs, -, e⟩ := interleave_cases s
  · rw [e]; exact h
  · rw [e]
    exact whileLive_keeps (fun hb ht => K.kill _ _ _ _ hs hk h hb ht) (K.deliver _ _ (K.popSched _ _ _ hs h))
  · rw [e]; exact K.deliver _ _ (K.popSched _ _ _ hs h)

theorem Closed.setField (K : Closed P) (mask bits : Byte) {s : State} (h : P s) :
    P (setField mask bits s) := by
  have split_ : ∀ v t, P t →
      P (whileBusy (Machine.memWrite .seq .portB (maskedByte v mask bits) fun s =>
        whileBusy (State.setCtl (maskedByte v mask bits)) (Machine.interleave s)) (Machine.interleave t)) := by
    intro v t ht
    refine whileBusy_keeps (fun _ h => ?_) (K.interleave ht)
    obtain ⟨-, e⟩ | ⟨left, -, e⟩ := memWrite_cases .seq .portB (maskedByte v mask bits)
      (fun s => whileBusy (State.setCtl (maskedByte v mask bits)) (Machine.interleave s)) (Machine.interleave t)
    · rw [e]
      exact whileBusy_keeps (fun _ h => K.setCtl _ _ h) (K.interleave (K.log _ _ (K.setPortB _ _ (K.popPio _ h))))
    · rw [e]; exact K.raise _ _ (accessFault_ne_none _ _) (K.log _ _ (K.setPortB _ _ (K.popPio _ h)))
  unfold Machine.setField
  split
  · exact K.setFieldAtomic _ _ _ h
  · unfold setFieldSplit
    obtain ⟨-, e⟩ | ⟨-, e⟩ := readOld_cases .seq (fun old s =>
      whileBusy (Machine.memWrite .seq .portB (maskedByte old mask bits) fun s =>
        whileBusy (State.setCtl (maskedByte old mask bits)) (Machine.interleave s)) (Machine.interleave s)) s
    · rw [e]; exact split_ _ _ h
    · rw [e]
      obtain ⟨-, e⟩ | ⟨left, -, e⟩ := memRead_cases .seq .portB (fun old s =>
        whileBusy (Machine.memWrite .seq .portB (maskedByte old mask bits) fun s =>
          whileBusy (State.setCtl (maskedByte old mask bits)) (Machine.interleave s)) (Machine.interleave s)) s
      · rw [e]; exact split_ _ _ (K.log _ _ (K.popPio _ h))
      · rw [e]; exact K.raise _ _ (accessFault_ne_none _ _) (K.log _ _ (K.popPio _ h))

/-- The actions that touch port B and the observer's record alone. -/
def Action.onPortB : Action → Bool
  | .setField _ _ | .holdBegin | .holdEnd => true
  | .setData _ | .imgOpen _ | .imgNext _ _ => false

theorem Closed.perform (K : Closed P) {a : Action} (ha : a.onPortB = true) {s : State} (h : P s) :
    P (a.perform s) := by
  cases a with
  | setField mask bits => exact K.setField mask bits h
  | holdBegin => exact K.log _ _ h
  | holdEnd => exact K.log _ _ h
  | setData b => cases ha
  | imgOpen k => cases ha
  | imgNext k x => cases ha

theorem ClosedData.perform (K : ClosedData P) (a : Action) {s : State} (h : P s) :
    P (a.perform s) := by
  cases a with
  | setField mask bits => exact K.toClosed.setField mask bits h
  | holdBegin => exact K.log _ _ h
  | holdEnd => exact K.log _ _ h
  | setData b => exact K.toClosed.memWrite K.setPortA (K.setData _) h
  | imgOpen k =>
    show P (openImage k s)
    unfold openImage
    split
    · exact K.setHandle _ _ (K.log _ _ (K.popImg _ h))
    · exact K.raise _ _ (by simp) (K.log _ _ (K.popImg _ h))
  | imgNext k x =>
    show P (nextImageByte k x s)
    unfold nextImageByte
    split
    · exact K.raise _ _ (by simp) (K.log _ _ (K.popImg _ h))
    · split
      · exact K.log _ _ (K.popImg _ h)
      · exact K.setHandle _ _ (K.log _ _ (K.popImg _ h))

/-- Every position of a command is at most three frames deep (R30). -/
def Shallow (ms : List Micro) : Prop := ∀ m ∈ ms, m.pos.frames.length ≤ 3

/-- A command keeps what its updates and its actions keep. -/
theorem Closed.command (K : Closed P) {ms : List Micro} (hms : Shallow ms) (val : State → Byte)
    (hact : ∀ m ∈ ms, ∀ s, P s → P (m.act.perform s)) {s : State} (hi : s.run = .idle) (h : P s) :
    P (command ms val s) := by
  refine whileBusy_keeps (fun hb h => K.respond _ _ _ (.inl rfl) (.inr hb) h) ?_
  refine whileBusy_keeps (fun _ h => K.interleave h) ?_
  suffices ∀ l : List Micro, (∀ m ∈ l, m ∈ ms) → ∀ t, P t → P (l.foldl seqStep t) from
    this ms (fun _ h => h) _ (K.busy _ hi h)
  intro l
  induction l with
  | nil => intro _ t ht; exact ht
  | cons m l ih =>
    intro hl t ht
    have hm := hl m (List.mem_cons_self ..)
    refine ih (fun m hm => hl m (List.mem_cons_of_mem _ hm)) _ (whileBusy_keeps (fun hb ht => ?_) ht)
    exact whileBusy_keeps (fun _ h' => hact m hm _ h') (K.interleave (K.pos _ _ hb (hms m hm) ht))

theorem Closed.commandB (K : Closed P) {ms : List Micro} (hms : Shallow ms) (hB : ∀ m ∈ ms, m.act.onPortB = true)
    (val : State → Byte) {s : State} (hi : s.run = .idle) (h : P s) : P (Machine.command ms val s) :=
  K.command hms val (fun m hm _ h => K.perform (hB m hm) h) hi h

theorem ClosedData.command (K : ClosedData P) {ms : List Micro} (hms : Shallow ms) (val : State → Byte) {s : State}
    (hi : s.run = .idle) (h : P s) : P (Machine.command ms val s) :=
  K.toClosed.command hms val (fun m _ _ h => K.perform m.act h) hi h

/-! The commands' positions and actions. -/

theorem shallow_one (a : Action) : Shallow [⟨.empty, a⟩] := by simp [Shallow, SeqPc.empty]

theorem pulseMicros_shallow {outer : List Frame} (k : Nat) (h : outer.length ≤ 2) : Shallow (pulseMicros outer k) := by
  intro m hm
  simp only [pulseMicros, List.mem_cons, List.not_mem_nil, or_false] at hm
  obtain rfl | rfl | rfl | rfl := hm <;> simp <;> omega

theorem pulseMicros_onPortB (outer : List Frame) (k : Nat) : ∀ m ∈ pulseMicros outer k, m.act.onPortB = true := by
  intro m hm
  simp only [pulseMicros, List.mem_cons, List.not_mem_nil, or_false] at hm
  obtain rfl | rfl | rfl | rfl := hm <;> rfl

theorem Shallow.append {a b : List Micro} (ha : Shallow a) (hb : Shallow b) : Shallow (a ++ b) := by
  intro m hm
  obtain h | h := List.mem_append.1 hm
  · exact ha m h
  · exact hb m h

theorem Shallow.cons {a : Micro} {b : List Micro} (ha : a.pos.frames.length ≤ 3) (hb : Shallow b) :
    Shallow (a :: b) := by
  intro m hm
  obtain rfl | h := List.mem_cons.1 hm
  · exact ha
  · exact hb m h

theorem loadLoopMicros_shallow {outer : List Frame} (img : ImageId) (k : Nat) (bytes : List Byte)
    (h : outer.length ≤ 1) : Shallow (loadLoopMicros outer img k bytes) := by
  induction bytes generalizing k with
  | nil => intro m hm; simp only [loadLoopMicros, List.mem_singleton] at hm; subst hm; simp; omega
  | cons x xs ih =>
    refine .cons (by simp; omega) (.cons (by simp; omega) (.append (pulseMicros_shallow _ (by simp; omega)) (ih _)))

theorem loadProgramMicros_shallow {outer : List Frame} (img : ImageId) (bytes : List Byte) (h : outer.length ≤ 1) :
    Shallow (loadProgramMicros outer img bytes) :=
  .cons (by simp; omega) (loadLoopMicros_shallow _ _ _ h)

theorem fixedMicros_shallow (op : CompositeOp) (im : Images) (n : Nat) (sts : List FixedStep) :
    Shallow (fixedMicros op im n sts) := by
  induction sts generalizing n with
  | nil => intro m hm; simp [fixedMicros] at hm
  | cons st sts ih =>
    refine .append ?_ (ih _)
    cases st with
    | mode m => exact .cons (by simp) (fun _ h => by simp at h)
    | mp v => exact .cons (by simp) (fun _ h => by simp at h)
    | data b => exact .cons (by simp) (fun _ h => by simp at h)
    | pulse => exact pulseMicros_shallow _ (by simp)
    | load img => exact loadProgramMicros_shallow _ _ (by simp)

/-! Whole instructions. -/

/-- An instruction keeps what its effect keeps: it is taken, or it waits and nothing changes. -/
theorem keeps_of_whenIdle {k : State → State} {s t : State} (h : P s) (hk : s.run = .idle → P (k s))
    (e : whenIdle k s = .next t) : P t := by
  obtain ⟨hi, rfl⟩ | ⟨-, rfl⟩ := whenIdle_next e
  · exact hk hi
  · exact h

theorem Closed.getterCommand (K : Closed P) (val : State → Byte) {s : State} (hi : s.run = .idle) (h : P s) :
    P (getterCommand val s) :=
  K.commandB (fun _ h => by simp at h) (fun _ h => by simp at h) _ hi h

theorem Closed.asking (K : Closed P) {val : State → Byte} {k : Byte → State → State}
    (hk : ∀ v t, t.run = .idle → P t → P (k v t)) {s : State} (hi : s.run = .idle) (h : P s) :
    P (asking (Machine.getterCommand val) k s) :=
  goingOn_keeps (f := fun t => k t.answer t) (fun _ h => K.interleave h) (fun _ hi h => hk _ _ hi h)
    (K.getterCommand val hi h)

theorem Closed.renderStatus (K : Closed P) {s : State} (h : P s) : P (renderStatus s) :=
  goingOn_keeps (fun _ h => K.interleave h) (fun _ hi h =>
    K.asking (fun _ _ hi h => K.asking (fun _ _ hi h => K.asking (fun _ _ _ h => K.setStatus _ _ h) hi h) hi h) hi h) h

theorem Closed.setterCommand (K : Closed P) (mask bits : Byte) {s : State} (hi : s.run = .idle) (h : P s) :
    P (setterCommand mask bits s) :=
  K.commandB (shallow_one _) (by simp [Action.onPortB]) _ hi h

theorem Closed.setModeCommand (K : Closed P) (m : Byte) {s : State} (hi : s.run = .idle) (h : P s) :
    P (setModeCommand m s) := by
  unfold Machine.setModeCommand
  split
  · exact K.setterCommand _ _ hi h
  · exact K.respond _ _ _ (.inr (.inl rfl)) (.inl hi) h

theorem ClosedData.setDataCommand (K : ClosedData P) (b : Byte) {s : State} (hi : s.run = .idle) (h : P s) :
    P (setDataCommand b s) :=
  K.command (shallow_one _) _ hi h

/-- The instructions that touch port B and the registers alone. -/
def onPortBOnly : Instr → Bool
  | .getData | .getMode | .getMp | .getEf4 | .getStb | .setMode _ | .setMp _ | .setEf4 _ | .setStb _ | .pulse
  | .reservedCmd _ | .keyIrqI | .keyIrqNewline | .keyIrqSpace | .keyL | .keyR | .keyG | .keyW
  | .keyP | .keyNop _ | .keyboardNop _ | .release => true
  | .quit | .toggle => false
  | .setData _ | .loadProgram0 | .loadProgram1 | .loadProgram2 | .loadMonitor | .runMonitor => false
  | .keyHex0 | .keyHex1 | .keyHex2 | .keyHex3 | .keyHex4 | .keyHex5 | .keyHex6 | .keyHex7 => false
  | .keyHex8 | .keyHex9 | .keyHexA | .keyHexB | .keyHexC | .keyHexD | .keyHexE | .keyHexF => false
  | .keyZ | .keyM | .keyChar _ => false

theorem Closed.relDrain (K : Closed P) {s : State} (h : P s) : P (relDrain s) := K.relSteps _ h

theorem Closed.getter (K : Closed P) (val : State → Byte) {s t : State} (h : P s)
    (e : whenIdle (Machine.getterCommand val) s = .next t) : P t :=
  keeps_of_whenIdle h (fun hi => K.getterCommand val hi h) e

/-- An instruction of port B keeps what its updates keep. -/
theorem Closed.exec (K : Closed P) {i : Instr} (hB : onPortBOnly i = true) {s t : State} (h : P s)
    (e : exec i s = .next t) : P t := by
  have set : ∀ mask bits, whenIdle (Machine.setterCommand mask bits) s = .next t → P t :=
    fun _ _ => keeps_of_whenIdle h fun hi => K.setterCommand _ _ hi h
  have sym : ∀ k : State → State, (s.run = .idle → P (k s)) → symbol k s = .next t → P t :=
    fun k hk => keeps_of_whenIdle (k := fun s => Machine.renderStatus (k s)) h fun hi => K.renderStatus (hk hi)
  cases i with
  | getData => exact K.getter _ h e
  | getMode => exact K.getter _ h e
  | getMp => exact K.getter _ h e
  | getEf4 => exact K.getter _ h e
  | getStb => exact K.getter _ h e
  | setMode m => exact keeps_of_whenIdle h (fun hi => K.setModeCommand _ hi h) e
  | setMp v => exact set _ _ e
  | setEf4 v => exact set _ _ e
  | setStb v => exact set _ _ e
  | pulse =>
    exact keeps_of_whenIdle h
      (fun hi => K.commandB (pulseMicros_shallow _ (by simp)) (pulseMicros_onPortB _ _) _ hi h) e
  | reservedCmd w => exact keeps_of_whenIdle h (fun hi => K.respond _ _ _ (.inr (.inr rfl)) (.inl hi) h) e
  | keyIrqI => exact sym _ (fun hi => K.setterCommand _ _ hi h) e
  | keyIrqNewline => exact sym _ (fun hi => K.setterCommand _ _ hi h) e
  | keyIrqSpace => exact sym _ (fun hi => K.setterCommand _ _ hi h) e
  | keyL => exact sym _ (fun hi => K.setModeCommand _ hi h) e
  | keyR => exact sym _ (fun hi => K.setModeCommand _ hi h) e
  | keyG => exact sym _ (fun hi => K.setModeCommand _ hi h) e
  | keyW => exact sym _ (fun hi => K.setModeCommand _ hi h) e
  | keyP => exact sym _ (fun hi => K.asking (fun _ _ hi h => K.setterCommand _ _ hi h) hi h) e
  | keyNop c => exact sym _ (fun _ => h) e
  | keyboardNop c => exact sym _ (fun _ => h) e
  | release =>
    simp only [Machine.exec, execRelease] at e
    split at e
    · obtain rfl : _ = t := by simpa using e
      exact K.relDrain (K.setRelPending _ _ h)
    · cases e
  | _ => cases hB

theorem Closed.symbol (K : Closed P) {k : State → State} {s t : State} (h : P s) (hk : s.run = .idle → P (k s))
    (e : symbol k s = .next t) : P t :=
  keeps_of_whenIdle (k := fun s => Machine.renderStatus (k s)) h (fun hi => K.renderStatus (hk hi)) e

theorem ClosedData.hexKey (K : ClosedData P) (n : BitVec 4) {s t : State} (h : P s) (e : hexKey n s = .next t) :
    P t :=
  K.toClosed.symbol h (fun hi => K.toClosed.asking (fun _ _ hi h => K.setDataCommand _ hi h) hi h) e

theorem ClosedData.loadProgram (K : ClosedData P) (img : ImageId) {s : State} (hi : s.run = .idle) (h : P s) :
    P (loadProgramCommand img s) := by
  unfold loadProgramCommand
  exact K.command (loadProgramMicros_shallow _ _ (by simp)) _ hi h

theorem ClosedData.loadMonitor (K : ClosedData P) {s : State} (hi : s.run = .idle) (h : P s) :
    P (loadMonitorCommand s) := by
  unfold loadMonitorCommand
  exact K.command (fixedMicros_shallow _ _ _ _) _ hi h

theorem ClosedData.runMonitor (K : ClosedData P) {s : State} (hi : s.run = .idle) (h : P s) :
    P (runMonitorCommand s) := by
  unfold runMonitorCommand
  exact K.command (fixedMicros_shallow _ _ _ _) _ hi h

theorem ClosedData.keyChar (K : ClosedData P) (c : Byte) {s t : State} (h : P s) (e : execKeyChar c s = .next t) :
    P t := by
  unfold execKeyChar at e
  exact K.toClosed.symbol h (k := fun s => goingOn (setStbCommand true) (Machine.setDataCommand c s)) (fun hi =>
    goingOn_keeps (fun _ h => K.toClosed.interleave h) (fun _ hi h => K.toClosed.setterCommand _ _ hi h)
      (K.setDataCommand c hi h)) e

/-- Any instruction but quit and toggle keeps what its updates keep. -/
theorem ClosedData.exec (K : ClosedData P) {i : Instr} (hq : i ≠ .quit) (ht : i ≠ .toggle) {s t : State} (h : P s)
    (e : Machine.exec i s = .next t) : P t := by
  cases hB : onPortBOnly i with
  | true => exact K.toClosed.exec hB h e
  | false =>
    cases i with
    | quit => exact absurd rfl hq
    | toggle => exact absurd rfl ht
    | setData b => exact keeps_of_whenIdle h (fun hi => K.setDataCommand b hi h) e
    | loadProgram0 => exact keeps_of_whenIdle h (fun hi => K.loadProgram .bootstrap hi h) e
    | loadProgram1 => exact keeps_of_whenIdle h (fun hi => K.loadProgram .monitor hi h) e
    | loadProgram2 => exact keeps_of_whenIdle h (fun hi => K.loadProgram .bios hi h) e
    | loadMonitor => exact keeps_of_whenIdle h (fun hi => K.loadMonitor hi h) e
    | runMonitor => exact keeps_of_whenIdle h (fun hi => K.runMonitor hi h) e
    | keyZ => exact K.toClosed.symbol h (fun hi => K.loadMonitor hi h) e
    | keyM => exact K.toClosed.symbol h (fun hi => K.runMonitor hi h) e
    | keyChar c => exact K.keyChar c h e
    | keyHex0 | keyHex1 | keyHex2 | keyHex3 | keyHex4 | keyHex5 | keyHex6 | keyHex7
    | keyHex8 | keyHex9 | keyHexA | keyHexB | keyHexC | keyHexD | keyHexE | keyHexF => exact K.hexKey _ h e
    | _ => cases hB

end Sys2Proof.Machine
end

