-- ==== Sys2Proof/Laws/Decode.lean ====
section
/-! SUPPORT. The command decoder as one chain of comparisons on the word's value (rule R66). -/

namespace Sys2Proof

/-- A full-word mask compares the word. -/
theorem and_FFFF_eq (w c : CmdWord) : (w &&& 0xFFFF#16 = c) = (w.toNat = c.toNat) := by
  have h : w &&& 0xFFFF#16 = w := by
    have : (0xFFFF#16) = BitVec.allOnes 16 := by decide
    rw [this, BitVec.and_allOnes]
  rw [h]; exact propext BitVec.toNat_eq

/-- A mask of all but the low `k` bits compares the word without them. -/
theorem and_high_eq (w c m : CmdWord) (k : Nat) (hm : m = (BitVec.allOnes 16 >>> k) <<< k) (hc : c = (c >>> k) <<< k) :
    (w &&& m = c) = (w.toNat / 2 ^ k = c.toNat / 2 ^ k) := by
  have h1 : w &&& m = (w >>> k) <<< k := by
    subst hm
    ext i hi
    rw [BitVec.getElem_and, BitVec.getElem_shiftLeft, BitVec.getElem_shiftLeft]
    by_cases hk : i < k
    · simp [hk]
    · have e : k + (i - k) = i := by omega
      simp only [hk, decide_false, Bool.not_false, Bool.true_and, BitVec.getElem_ushiftRight, e,
        BitVec.getLsbD_allOnes, hi, decide_true, Bool.and_true]
      exact (BitVec.getLsbD_eq_getElem hi).symm
  have h2 : ((w >>> k) <<< k = c) ↔ (w >>> k = c >>> k) := by
    constructor
    · intro h; rw [← h]; ext i hi
      simp
      intro h; exact (BitVec.lt_of_getLsbD h)
    · intro h; rw [hc, h]
  rw [h1]
  refine propext (h2.trans ?_)
  rw [BitVec.toNat_eq]
  simp [BitVec.toNat_ushiftRight, Nat.shiftRight_eq_div_pow]

theorem and_FF00_eq (w c : CmdWord) (hc : c = (c >>> 8) <<< 8) :
    (w &&& 0xFF00#16 = c) = (w.toNat / 256 = c.toNat / 256) := and_high_eq w c _ 8 (by decide) hc

theorem and_FFFE_eq (w c : CmdWord) (hc : c = (c >>> 1) <<< 1) :
    (w &&& 0xFFFE#16 = c) = (w.toNat / 2 = c.toNat / 2) := and_high_eq w c _ 1 (by decide) hc

/-- Everything the command decoder can answer, with the rows of R66 as ranges of the word. -/
theorem decodeCmd_eq (w : CmdWord) : decodeCmd w =
    if w.toNat = 0 then .getData
    else if w.toNat / 256 = 0x10 then .setData (cmdArg w)
    else if w.toNat = 0x2000 then .getMode
    else if w.toNat / 256 = 0x30 then .setMode (cmdArg w)
    else if w.toNat = 0x4000 then .getMp
    else if w.toNat / 2 = 0x2800 then .setMp ((cmdArg w).getLsbD 0)
    else if w.toNat = 0x6000 then .getEf4
    else if w.toNat / 2 = 0x3800 then .setEf4 ((cmdArg w).getLsbD 0)
    else if w.toNat = 0x8000 then .getStb
    else if w.toNat / 2 = 0x4800 then .setStb ((cmdArg w).getLsbD 0)
    else if w.toNat = 0xA000 then .pulse
    else if w.toNat = 0xB000 then .loadProgram0
    else if w.toNat = 0xB001 then .loadProgram1
    else if w.toNat = 0xB002 then .loadProgram2
    else if w.toNat = 0xC000 then .loadMonitor
    else if w.toNat = 0xD000 then .runMonitor
    else .reservedCmd w := by
  simp only [decodeCmd, cmdTable, decodeRows]
  simp only [and_FFFF_eq, and_FF00_eq w 0x1000#16 (by decide), and_FF00_eq w 0x3000#16 (by decide),
    and_FFFE_eq w 0x5000#16 (by decide), and_FFFE_eq w 0x7000#16 (by decide), and_FFFE_eq w 0x9000#16 (by decide)]
  rfl

end Sys2Proof
end

