-- ==== Sys2Proof/Laws/Step.lean ====
section
/-! SUPPORT. Everything attach can do, everything a step can do, and what both keep. -/

namespace Sys2Proof.Machine

/-! Attach. -/

/-- A point inside attach goes on, or the process is killed. -/
theorem attachPoint_cases (k : State → State) (s : State) :
    (∃ l, attachPoint k s = k (s.setSched l)) ∨ (∃ l, attachPoint k s = newSession (s.setSched l)) := by
  unfold attachPoint
  split
  · exact .inl ⟨s.env.sched, rfl⟩
  · split
    · exact .inr ⟨_, rfl⟩
    · exact .inl ⟨_, rfl⟩

/-- A property that each update of attach keeps, for one port: `P` before the end, `Q` at the end. -/
theorem attachPort_keeps {P Q : State → Prop} (x : Port) {k : State → State}
    (hlog : ∀ e s, P s → P (s.log e)) (hpop : ∀ s, P s → P s.popPio)
    (hset : ∀ r v s, P s → P (s.setReg r v)) (hsch : ∀ l s, P s → P (s.setSched l))
    (hr : ∀ c s, c ≠ .none → P s → Q (raise c s)) (hk : ∀ v f s, P s → Q (k (adopt x v f s)))
    (hn : ∀ l s, P s → Q (newSession (s.setSched l))) {s : State} (h : P s) : Q (attachPort x k s) := by
  have pt : ∀ (k : State → State) s, (∀ s, P s → Q (k s)) → P s → Q (attachPoint k s) := by
    intro k s hk h
    obtain ⟨l, e⟩ | ⟨l, e⟩ := attachPoint_cases k s
    · rw [e]; exact hk _ (hsch _ _ h)
    · rw [e]; exact hn _ _ h
  have rd : ∀ r (k : Byte → State → State) s, (∀ v s, P s → Q (k v s)) → P s → Q (memRead .seq r k s) := by
    intro r k s hk h
    obtain ⟨-, e⟩ | ⟨left, -, e⟩ := memRead_cases .seq r k s
    · rw [e]; exact hk _ _ (hlog _ _ (hpop _ h))
    · rw [e]; exact hr _ _ (accessFault_ne_none _ _) (hlog _ _ (hpop _ h))
  have wr : ∀ r v (k : State → State) s, (∀ s, P s → Q (k s)) → P s → Q (memWrite .seq r v k s) := by
    intro r v k s hk h
    obtain ⟨-, e⟩ | ⟨left, -, e⟩ := memWrite_cases .seq r v k s
    · rw [e]; exact hk _ (hlog _ _ (hset _ _ _ (hpop _ h)))
    · rw [e]; exact hr _ _ (accessFault_ne_none _ _) (hlog _ _ (hset _ _ _ (hpop _ h)))
  refine rd _ _ _ (fun d s h => pt _ _ (fun s h => ?_) h) h
  split
  · exact rd _ _ _ (fun v s h => hk _ _ _ h) h
  · exact wr _ _ _ _ (fun s h => pt _ _ (fun s h => wr _ _ _ _ (fun s h => hk _ _ _ h) h) h) h

/-- A property that each update of attach keeps. -/
theorem attach_keeps {P : State → Prop}
    (hlog : ∀ e s, P s → P (s.log e)) (hpop : ∀ s, P s → P s.popPio)
    (hset : ∀ r v s, P s → P (s.setReg r v)) (hsch : ∀ l s, P s → P (s.setSched l))
    (hr : ∀ c s, c ≠ .none → P s → P (raise c s)) (had : ∀ x v f s, P s → P (adopt x v f s))
    (hst : ∀ s, P s → P (startSession s)) (hn : ∀ s, P s → P (newSession s)) {s : State} (h : P s) :
    P (attach s) := by
  refine attachPort_keeps .a hlog hpop hset hsch hr (fun v f s h => ?_) (fun l s h => hn _ (hsch _ _ h)) h
  have hb : ∀ s, P s → P (attachPort .b startSession s) := fun s h =>
    attachPort_keeps .b hlog hpop hset hsch hr (fun v f s h => hst _ (had _ _ _ _ h))
      (fun l s h => hn _ (hsch _ _ h)) h
  obtain ⟨l, e⟩ | ⟨l, e⟩ := attachPoint_cases (attachPort .b startSession) (adopt .a v f s)
  · rw [e]; exact hb _ (hsch _ _ (had _ _ _ _ h))
  · rw [e]; exact hn _ (hsch _ _ (had _ _ _ _ h))

/-- `t` is `s` but for its record, its environment and the peripheral, which is `p`. -/
structure Along (s t : State) (p : Periph) : Prop where
  periph : t.periph = p
  data : t.data = s.data
  ctl : t.ctl = s.ctl
  run : t.run = s.run
  cfg : t.cfg = s.cfg

/-- A read goes on with the byte read, or faults. -/
theorem memRead_along (r : PortReg) (k : Byte → State → State) (s : State) :
    (∃ t, memRead .seq r k s = k (s.periph.get r) t ∧ Along s t s.periph) ∨ (memRead .seq r k s).run = .faulted := by
  obtain ⟨-, e⟩ | ⟨left, -, e⟩ := memRead_cases .seq r k s
  · exact .inl ⟨_, e, rfl, rfl, rfl, rfl, rfl⟩
  · exact .inr (by rw [e]; rfl)

/-- A write goes on, or faults. -/
theorem memWrite_along (r : PortReg) (v : Byte) (k : State → State) (s : State) :
    (∃ t, memWrite .seq r v k s = k t ∧ Along s t (s.periph.set r v)) ∨ (memWrite .seq r v k s).run = .faulted := by
  obtain ⟨-, e⟩ | ⟨left, -, e⟩ := memWrite_cases .seq r v k s
  · exact .inl ⟨_, e, rfl, rfl, rfl, rfl, rfl⟩
  · exact .inr (by rw [e]; rfl)

/-- A point of attach goes on, or the session is killed. -/
theorem attachPoint_along (k : State → State) (s : State) :
    (∃ t, attachPoint k s = k t ∧ Along s t s.periph) ∨ (attachPoint k s).run = .unattached := by
  obtain ⟨l, e⟩ | ⟨l, e⟩ := attachPoint_cases k s
  · exact .inl ⟨_, e, rfl, rfl, rfl, rfl, rfl⟩
  · exact .inr (by rw [e]; rfl)

/-- What attaching one port has done when it goes on: the port is all-output and holds the byte adopted, and the other
port, the mirrors and `run` are as before. -/
structure PortAttached (x : Port) (v : Byte) (s t : State) : Prop where
  dir : t.periph.get x.dirReg = Config.dirAllOutput
  value : t.periph.get x.valueReg = v
  other : ∀ r, r ≠ x.dirReg → r ≠ x.valueReg → t.periph.get r = s.periph.get r
  data : t.data = s.data
  ctl : t.ctl = s.ctl
  run : t.run = s.run
  cfg : t.cfg = s.cfg

/-- Everything attaching one port can do: it goes on, or the session is over (a fault or a kill). -/
theorem attachPort_cases (x : Port) (k : State → State) (s : State) :
    (∃ v f t, attachPort x k s = k (adopt x v f t) ∧ PortAttached x v s t) ∨
    (attachPort x k s).run = .faulted ∨ (attachPort x k s).run = .unattached := by
  unfold attachPort
  obtain ⟨a, e, ha⟩ | e := memRead_along x.dirReg (fun d => attachPoint <|
    if d = Config.dirAllOutput then memRead .seq x.valueReg fun v s => k (adopt x v false s)
    else memWrite .seq x.dirReg Config.dirAllOutput <| attachPoint <|
      memWrite .seq x.valueReg x.default fun s => k (adopt x x.default true s)) s
  swap
  · exact .inr (.inl e)
  rw [e]
  clear e
  split
  · rename_i hd
    obtain ⟨b, e, hb⟩ | e := attachPoint_along (memRead .seq x.valueReg fun v s => k (adopt x v false s)) a
    swap
    · exact .inr (.inr e)
    rw [e]
    obtain ⟨c, e, hc⟩ | e := memRead_along x.valueReg (fun v s => k (adopt x v false s)) b
    swap
    · exact .inr (.inl e)
    have hp : c.periph = s.periph := by rw [hc.periph, hb.periph, ha.periph]
    refine .inl ⟨_, _, c, e, by rw [hp, hd], by rw [hc.periph], fun _ _ _ => by rw [hp], ?_, ?_, ?_, ?_⟩
    · rw [hc.data, hb.data, ha.data]
    · rw [hc.ctl, hb.ctl, ha.ctl]
    · rw [hc.run, hb.run, ha.run]
    · rw [hc.cfg, hb.cfg, ha.cfg]
  · obtain ⟨b, e, hb⟩ | e := attachPoint_along (memWrite .seq x.dirReg Config.dirAllOutput <| attachPoint <|
      memWrite .seq x.valueReg x.default fun s => k (adopt x x.default true s)) a
    swap
    · exact .inr (.inr e)
    rw [e]
    obtain ⟨c, e, hc⟩ | e := memWrite_along x.dirReg Config.dirAllOutput (attachPoint <|
      memWrite .seq x.valueReg x.default fun s => k (adopt x x.default true s)) b
    swap
    · exact .inr (.inl e)
    rw [e]
    obtain ⟨d, e, hd⟩ | e := attachPoint_along
      (memWrite .seq x.valueReg x.default fun s => k (adopt x x.default true s)) c
    swap
    · exact .inr (.inr e)
    rw [e]
    obtain ⟨f, e, hf⟩ | e := memWrite_along x.valueReg x.default (fun s => k (adopt x x.default true s)) d
    swap
    · exact .inr (.inl e)
    have hp : f.periph = (s.periph.set x.dirReg Config.dirAllOutput).set x.valueReg x.default := by
      rw [hf.periph, hd.periph, hc.periph, hb.periph, ha.periph]
    have hne : x.dirReg ≠ x.valueReg := by cases x <;> simp [Port.dirReg, Port.valueReg]
    refine .inl ⟨_, _, f, e, ?_, ?_, fun r h1 h2 => ?_, ?_, ?_, ?_, ?_⟩
    · rw [hp, Periph.get_set_other _ _ hne, Periph.get_set_same]
    · rw [hp, Periph.get_set_same]
    · rw [hp, Periph.get_set_other _ _ h2, Periph.get_set_other _ _ h1]
    · rw [hf.data, hd.data, hc.data, hb.data, ha.data]
    · rw [hf.ctl, hd.ctl, hc.ctl, hb.ctl, ha.ctl]
    · rw [hf.run, hd.run, hc.run, hb.run, ha.run]
    · rw [hf.cfg, hd.cfg, hc.cfg, hb.cfg, ha.cfg]

/-- Everything attach can do: both ports attached and the session started, or the session is over. -/
theorem attach_cases (s : State) :
    (∃ v f t w g u, attach s = startSession (adopt .b w g u) ∧ PortAttached .a v s t ∧
      PortAttached .b w (adopt .a v f t) u) ∨
    (attach s).run = .faulted ∨ (attach s).run = .unattached := by
  unfold attach
  obtain ⟨v, f, t, e, ha⟩ | h := attachPort_cases .a (attachPoint (attachPort .b startSession)) s
  swap
  · exact .inr h
  rw [e]
  obtain ⟨q, e, hq⟩ | e := attachPoint_along (attachPort .b startSession) (adopt .a v f t)
  swap
  · exact .inr (.inr e)
  rw [e]
  obtain ⟨w, g, u, e, hb⟩ | h := attachPort_cases .b startSession q
  swap
  · exact .inr h
  refine .inl ⟨v, f, t, w, g, u, e, ha, hb.dir, hb.value, fun r h1 h2 => ?_, ?_, ?_, ?_, ?_⟩
  · rw [hb.other r h1 h2, hq.periph]
  · rw [hb.data, hq.data]
  · rw [hb.ctl, hq.ctl]
  · rw [hb.run, hq.run]
  · rw [hb.cfg, hq.cfg]

/-! The step. -/

/-- Everything a step can do to a property that each of its parts keeps. -/
theorem step_keeps {P : State → Prop} {s t : State}
    (hexec : ∀ i l, P { s with inputs := l } → exec i { s with inputs := l } = .next t → P t)
    (hin : ∀ l, P s → P { s with inputs := l }) (hdrain : P s → P (relDrain s))
    (hdeliver : ∀ a n u, P u → P (deliver a n u)) (hnew : ∀ a n u, P u → P (restart a n u)) (hattach : s.run = .unattached → P s → P (attach s))
    (h : P s) (e : step s = .next t) : P t := by
  have ro : ∀ f, restartOnly f s = .next t → P t := by
    intro f e
    unfold restartOnly at e
    split at e
    · obtain rfl : _ = t := by simpa using e
      exact hnew _ _ _ (hin _ h)
    · cases e
  unfold step at e
  split at e
  · obtain rfl : _ = t := by simpa using e
    exact hattach ‹_› h
  · unfold takeInput at e
    split at e
    · obtain rfl : _ = t := by simpa using e
      exact hdrain h
    · obtain rfl : _ = t := by simpa using e
      exact hdeliver _ _ _ (hin _ h)
    · obtain rfl : _ = t := by simpa using e
      exact hnew _ _ _ (hin _ h)
    · exact hexec _ _ (hin _ h) e
  · unfold takeEvent at e
    split at e
    · exact hexec _ _ (hin _ h) e
    · obtain rfl : _ = t := by simpa using e
      exact hdeliver _ _ _ (hin _ h)
    · obtain rfl : _ = t := by simpa using e
      exact hnew _ _ _ (hin _ h)
    · obtain rfl : _ = t := by simpa using e
      exact hdrain h
  · exact ro _ e
  · exact ro _ e

/-- A restart keeps what a new session and the updates of REL keep. -/
theorem Closed.restart {P : State → Prop} (K : Closed P) (hn : ∀ s, P s → P (newSession s)) (a n : Nat) {s : State}
    (h : P s) : P (restart a n s) := hn _ (K.deliver a n h)

/-- Of a session that has ended a restart is a new session and nothing else. -/
theorem restart_notLive (a n : Nat) {s : State} (h1 : s.run ≠ .idle) (h2 : s.run ≠ .busy) :
    restart a n s = newSession s := by
  unfold restart deliver
  rw [relSteps_notLive n (s := s.setRelPending (s.relPending + a)) h1 h2]
  rfl

/-- Any instruction keeps a property its updates keep, quit and toggle too. -/
theorem ClosedData.execAny {P : State → Prop} (K : ClosedData P)
    (hq : ∀ s, s.run = .idle → P s → P { s with run := .terminated, loop := .exitedSuccess })
    (hm : ∀ m s, P s → P { s with imode := m }) {i : Instr} {s t : State} (h : P s) (e : Machine.exec i s = .next t) :
    P t := by
  by_cases h1 : i = .quit
  · subst h1
    replace e : execQuit _ = .next t := e
    exact keeps_of_whenIdle h (fun hi => hq _ hi h) e
  · by_cases h2 : i = .toggle
    · subst h2
      replace e : execToggle _ = .next t := e
      exact K.toClosed.symbol h (fun _ => hm _ _ h) e
    · exact K.exec h1 h2 h e

end Sys2Proof.Machine
end

