-- ==== Sys2Proof/Tests/Slice0.lean ====
section
/-! SUPPORT. Tests of the model against the words and vectors of the spec, and a witness for the hypotheses of each
statement. -/

namespace Sys2Proof.Tests

open Sys2Proof.Machine Sys2Proof.Safety

/-! Ill-formed terms, which the check refuses (R70, R71, R73, R143 to R145). -/

theorem test_wf_refuses_a_reserved_command_with_a_legal_word : (Instr.reservedCmd 0xB002#16).wellFormed = false := by decide
theorem test_wf_refuses_a_no_op_key_with_a_named_code : (Instr.keyNop 0x69#8).wellFormed = false := by decide
theorem test_wf_refuses_a_no_op_key_with_an_unfolded_code : (Instr.keyNop 0x48#8).wellFormed = false := by decide
theorem test_wf_refuses_the_quit_symbol_as_a_character : (Instr.keyChar 0x71#8).wellFormed = false := by decide
theorem test_wf_refuses_an_unfolded_character : (Instr.keyChar 0x41#8).wellFormed = false := by decide
theorem test_wf_refuses_a_control_code_as_a_character : (Instr.keyChar 0x7F#8).wellFormed = false := by decide
theorem test_wf_refuses_the_toggle_as_a_keyboard_no_op : (Instr.keyboardNop 0x00#8).wellFormed = false := by decide
theorem test_wf_refuses_a_printable_keyboard_no_op : (Instr.keyboardNop 0x20#8).wellFormed = false := by decide

/-! Decoding: one word for each instruction, written out from R66, R69 to R72. -/

theorem test_decode_getData : decode .control (.cmd 0b0000000000000000#16) = .getData := by decide
theorem test_decode_setData : decode .control (.cmd 0b0001000010100101#16) = .setData 0xA5#8 := by decide
theorem test_decode_getMode : decode .control (.cmd 0b0010000000000000#16) = .getMode := by decide
theorem test_decode_setMode : decode .control (.cmd 0b0011000000010000#16) = .setMode 0x10#8 := by decide
theorem test_decode_getMp : decode .control (.cmd 0b0100000000000000#16) = .getMp := by decide
theorem test_decode_setMp : decode .control (.cmd 0b0101000000000001#16) = .setMp true := by decide
theorem test_decode_getEf4 : decode .control (.cmd 0b0110000000000000#16) = .getEf4 := by decide
theorem test_decode_setEf4 : decode .control (.cmd 0b0111000000000000#16) = .setEf4 false := by decide
theorem test_decode_getStb : decode .control (.cmd 0b1000000000000000#16) = .getStb := by decide
theorem test_decode_setStb : decode .control (.cmd 0b1001000000000001#16) = .setStb true := by decide
theorem test_decode_pulse : decode .keyboard (.cmd 0b1010000000000000#16) = .pulse := by decide
theorem test_decode_loadProgram0 : decode .control (.cmd 0b1011000000000000#16) = .loadProgram0 := by decide
theorem test_decode_loadProgram1 : decode .control (.cmd 0b1011000000000001#16) = .loadProgram1 := by decide
theorem test_decode_loadProgram2 : decode .control (.cmd 0b1011000000000010#16) = .loadProgram2 := by decide
theorem test_decode_loadMonitor : decode .control (.cmd 0b1100000000000000#16) = .loadMonitor := by decide
theorem test_decode_runMonitor : decode .control (.cmd 0b1101000000000000#16) = .runMonitor := by decide
theorem test_decode_reservedCmd : decode .control (.cmd 0b1001000011111111#16) = .reservedCmd 0x90FF#16 := by decide
theorem test_decode_quit : decode .keyboard (.key 0b01010001#8) = .quit := by decide
theorem test_decode_toggle : decode .keyboard (.key 0b00000000#8) = .toggle := by decide
theorem test_decode_keyIrqI : decode .control (.key 0b01001001#8) = .keyIrqI := by decide
theorem test_decode_keyIrqNewline : decode .control (.key 0b00001010#8) = .keyIrqNewline := by decide
theorem test_decode_keyIrqSpace : decode .control (.key 0b00100000#8) = .keyIrqSpace := by decide
theorem test_decode_keyHex0 : decode .control (.key 0b00110000#8) = .keyHex0 := by decide
theorem test_decode_keyHex1 : decode .control (.key 0b00110001#8) = .keyHex1 := by decide
theorem test_decode_keyHex2 : decode .control (.key 0b00110010#8) = .keyHex2 := by decide
theorem test_decode_keyHex3 : decode .control (.key 0b00110011#8) = .keyHex3 := by decide
theorem test_decode_keyHex4 : decode .control (.key 0b00110100#8) = .keyHex4 := by decide
theorem test_decode_keyHex5 : decode .control (.key 0b00110101#8) = .keyHex5 := by decide
theorem test_decode_keyHex6 : decode .control (.key 0b00110110#8) = .keyHex6 := by decide
theorem test_decode_keyHex7 : decode .control (.key 0b00110111#8) = .keyHex7 := by decide
theorem test_decode_keyHex8 : decode .control (.key 0b00111000#8) = .keyHex8 := by decide
theorem test_decode_keyHex9 : decode .control (.key 0b00111001#8) = .keyHex9 := by decide
theorem test_decode_keyHexA : decode .control (.key 0b01100001#8) = .keyHexA := by decide
theorem test_decode_keyHexB : decode .control (.key 0b01100010#8) = .keyHexB := by decide
theorem test_decode_keyHexC : decode .control (.key 0b01100011#8) = .keyHexC := by decide
theorem test_decode_keyHexD : decode .control (.key 0b01100100#8) = .keyHexD := by decide
theorem test_decode_keyHexE : decode .control (.key 0b01100101#8) = .keyHexE := by decide
theorem test_decode_keyHexF : decode .control (.key 0b01100110#8) = .keyHexF := by decide
theorem test_decode_keyL : decode .control (.key 0b01101100#8) = .keyL := by decide
theorem test_decode_keyR : decode .control (.key 0b01110010#8) = .keyR := by decide
theorem test_decode_keyG : decode .control (.key 0b01000111#8) = .keyG := by decide
theorem test_decode_keyW : decode .control (.key 0b01110111#8) = .keyW := by decide
theorem test_decode_keyP : decode .control (.key 0b01110000#8) = .keyP := by decide
theorem test_decode_keyZ : decode .control (.key 0b01111010#8) = .keyZ := by decide
theorem test_decode_keyM : decode .control (.key 0b01101101#8) = .keyM := by decide
theorem test_decode_keyNop : decode .control (.key 0b00001101#8) = .keyNop 0x0D#8 := by decide
theorem test_decode_keyChar : decode .keyboard (.key 0b01000001#8) = .keyChar 0x61#8 := by decide
theorem test_decode_keyboardNop : decode .keyboard (.key 0b01111111#8) = .keyboardNop 0x7F#8 := by decide
theorem test_decode_release : decode .keyboard .evt = .release := by decide

/-! The host's view of a word: bit 0 is the least significant. -/

theorem test_tableWord_command : decodeTableWord 16 0xB001 = some .loadProgram1 := by decide
theorem test_tableWord_key : decodeTableWord 8 0x7A = some .keyZ := by decide
theorem test_tableWord_event : decodeTableWord 1 1 = some .release := by decide
theorem test_tableWord_no_strobe : decodeTableWord 1 0 = none := by decide

/-! Steps, from the vectors of 95_test_vectors. `st d c` is the reset state with the mirrors and ports at `d / c`. -/

def st (d c : Byte) : State :=
  { State.reset with data := d, ctl := c, periph := { State.reset.periph with portA := d, portB := c } }

/-- The mirrors and the response after an operation. -/
def after (i : Instr) (s : State) : Option (Byte × Byte × Option Resp) :=
  match exec i s with
  | .next t => some (t.data, t.ctl, t.resp)
  | .fault _ => none
  | .refused _ => none

/-- The accesses of an operation. -/
def seen (i : Instr) (s : State) : List Event :=
  match exec i s with
  | .next t => t.trace.filter isAccess
  | .fault _ => []
  | .refused _ => []

/-- The responses given during an operation (R67, R179). -/
def responses (i : Instr) (s : State) : List Resp :=
  match exec i s with
  | .next t => t.trace.filterMap fun | .resp r => some r | _ => none
  | .fault _ => []
  | .refused _ => []

/-- `run`, `cause` and `seq_pc` after an operation. -/
def ended (i : Instr) (s : State) : Option (RunState × Cause × SeqPc) :=
  match exec i s with
  | .next t => some (t.run, t.cause, t.seqPc)
  | .fault _ => none
  | .refused _ => none

/-- The answer of a command that went well. -/
def ok (v : Byte) : Option Resp := some ⟨0, v⟩

/-- The trace of a pulse: asserted byte, hold, deasserted byte. -/
def pulseOf (v w : Byte) : List Event := [wB v, .holdBegin 5, .holdEnd, wB w]

-- V5.
theorem test_getData : after .getData (st 0x51 0xB9) = some (0x51, 0xB9, ok 0x51) := by decide
theorem test_getMode : after .getMode (st 0x51 0xB9) = some (0x51, 0xB9, ok 0x18) := by decide
theorem test_getMp : after .getMp (st 0x51 0xB9) = some (0x51, 0xB9, ok 0x01) := by decide
theorem test_getEf4 : after .getEf4 (st 0x51 0xB9) = some (0x51, 0xB9, ok 0x01) := by decide
theorem test_getStb : after .getStb (st 0x51 0xB9) = some (0x51, 0xB9, ok 0x01) := by decide
theorem test_getEf4_deasserted : after .getEf4 (st 0x00 0x14) = some (0x00, 0x14, ok 0x00) := by decide
-- V6.
theorem test_setData_same : seen (.setData 0x00) (st 0x00 0x16) = [wA 0x00] := by decide
-- V3.
theorem test_setMode_run : after (.setMode 0x18) (st 0x00 0x0D) = some (0x00, 0x1D, ok 0x00) := by decide
theorem test_setMode_illegal : after (.setMode 0x01) (st 0x00 0x16) = some (0x00, 0x16, some ⟨2, 0x00⟩) := by decide
-- V4.
theorem test_setMp : after (.setMp false) (st 0x00 0xB9) = some (0x00, 0xB8, ok 0x00) := by decide
theorem test_setEf4 : after (.setEf4 true) (st 0x00 0xFF) = some (0x00, 0xFB, ok 0x00) := by decide
theorem test_setStb : after (.setStb true) (st 0x00 0x1A) = some (0x00, 0x18, ok 0x00) := by decide
-- V7.
theorem test_reservedCmd : after (.reservedCmd 0xF123) (st 0x00 0x16) = some (0x00, 0x16, some ⟨6, 0x00⟩) := by decide
-- V8.
theorem test_pulse : seen .pulse (st 0x00 0xE1) = pulseOf 0xE1 0xE5 := by decide
-- V9.
theorem test_loadProgram0 : seen .loadProgram0 { st 0x00 0x06 with images := ⟨[0xF8, 0x12], [], []⟩ } =
    [.imgOpen .bootstrap, .imgByte .bootstrap 0xF8, wA 0xF8] ++ pulseOf 0x02 0x06 ++
    [.imgByte .bootstrap 0x12, wA 0x12] ++ pulseOf 0x02 0x06 ++ [.imgEof .bootstrap] := by decide
theorem test_loadProgram1_empty : (seen .loadProgram1 (st 0x00 0x06)).filter isWrite = [] := by decide
-- R80 under R112: with RMW_SOURCE = port each write of port B follows a read of it.
theorem test_loadProgram1_port_source :
    seen .loadProgram1 { st 0x00 0x06 with images := ⟨[], [0xF8], []⟩, cfg := ⟨.port, true⟩ } =
    [.imgOpen .monitor, .imgByte .monitor 0xF8, wA 0xF8, .read .seq .portB 0x06, wB 0x02, .holdBegin 5, .holdEnd,
     .read .seq .portB 0x02, wB 0x06, .imgEof .monitor] := by decide
theorem test_loadProgram2_repeats : (seen .loadProgram2 { st 0x30 0x06 with images := ⟨[], [], [0x30, 0x30]⟩ }).filter isWrite =
    [wA 0x30, wB 0x02, wB 0x06, wA 0x30, wB 0x02, wB 0x06] := by decide
-- V9, the last row: the stream fails at its third read.
theorem test_loadProgram0_fails : ended .loadProgram0
    { st 0x00 0x06 with images := ⟨[0xF8, 0x12, 0xB3], [], []⟩, env := ⟨[], [.ok, .ok, .ok, .fail], []⟩ } =
    some (.faulted, .imageReadError .bootstrap, ⟨[⟨.loadProgram, 2⟩], 2⟩) := by decide
-- V10.
theorem test_loadMonitor_empty : (seen .loadMonitor (st 0xA5 0xE9)).filter isWrite =
    [wB 0xF1, wB 0xE1, wB 0xE0, wB 0xF0, wB 0xF8, wA 0x80, wB 0xF8, wB 0xFC, wA 0x00, wB 0xF8, wB 0xFC, wB 0xF4, wB 0xFC,
     wA 0x84, wB 0xF8, wB 0xFC, wA 0x00, wB 0xF8, wB 0xFC, wB 0xF4] := by decide +kernel
-- P5: image 1 cannot be opened.
theorem test_loadMonitor_missing_image : ended .loadMonitor
    { st 0x00 0x16 with images := ⟨[0xF8], [], []⟩, env := ⟨[], [.ok, .ok, .ok, .fail], []⟩ } =
    some (.faulted, .imageNotFound .monitor, ⟨[⟨.loadMonitor, 11⟩, ⟨.loadProgram, 1⟩], 0⟩) := by decide +kernel
-- P1, the third row.
theorem test_runMonitor : (seen .runMonitor (st 0x5A 0xB9)).filter isWrite =
    [wB 0xB1, wB 0xA1, wA 0xC0, wB 0xA1, wB 0xA5, wA 0x80, wB 0xA1, wB 0xA5, wA 0x00, wB 0xA1, wB 0xA5, wB 0xB5,
     wB 0xBD] := by decide
-- V11, CONTROL.
theorem test_keyIrqI : seen .keyIrqI (st 0x51 0x1E) = [wB 0x1A] := by decide
theorem test_keyIrqNewline : seen .keyIrqNewline (st 0x51 0x1E) = [wB 0x1A] := by decide
theorem test_keyIrqSpace : seen .keyIrqSpace (st 0x51 0x1E) = [wB 0x1A] := by decide
theorem test_keyHex7 : seen .keyHex7 (st 0x51 0x1E) = [wA 0x17] := by decide
theorem test_keyHexC : seen .keyHexC (st 0x51 0x1E) = [wA 0x1C] := by decide
theorem test_keyHexF : seen .keyHexF (st 0x51 0x1E) = [wA 0x1F] := by decide
theorem test_keyL : seen .keyL (st 0x51 0x1E) = [wB 0x06] := by decide
theorem test_keyR : seen .keyR (st 0x51 0x1E) = [wB 0x16] := by decide
theorem test_keyG : seen .keyG (st 0x51 0x1E) = [wB 0x1E] := by decide
theorem test_keyW : seen .keyW (st 0x51 0x1E) = [wB 0x0E] := by decide
theorem test_keyP : seen .keyP (st 0x51 0x1E) = [wB 0x1F] := by decide
theorem test_keyHex0 : seen .keyHex0 (st 0x51 0x1E) = [wA 0x10] := by decide
theorem test_keyHex1 : seen .keyHex1 (st 0x51 0x1E) = [wA 0x11] := by decide
theorem test_keyHex2 : seen .keyHex2 (st 0x51 0x1E) = [wA 0x12] := by decide
theorem test_keyHex3 : seen .keyHex3 (st 0x51 0x1E) = [wA 0x13] := by decide
theorem test_keyHex4 : seen .keyHex4 (st 0x51 0x1E) = [wA 0x14] := by decide
theorem test_keyHex5 : seen .keyHex5 (st 0x51 0x1E) = [wA 0x15] := by decide
theorem test_keyHex6 : seen .keyHex6 (st 0x51 0x1E) = [wA 0x16] := by decide
theorem test_keyHex9 : seen .keyHex9 (st 0x51 0x1E) = [wA 0x19] := by decide
theorem test_keyHexA : seen .keyHexA (st 0x51 0x1E) = [wA 0x1A] := by decide
theorem test_keyHexB : seen .keyHexB (st 0x51 0x1E) = [wA 0x1B] := by decide
theorem test_keyHexD : seen .keyHexD (st 0x51 0x1E) = [wA 0x1D] := by decide
theorem test_keyHexE : seen .keyHexE (st 0x51 0x1E) = [wA 0x1E] := by decide
theorem test_keyHex8 : seen .keyHex8 (st 0x51 0x1E) = [wA 0x18] := by decide
theorem test_keyM : after .keyM (st 0x51 0x1E) = some (0x00, 0x1E, ok 0x00) := by decide
theorem test_keyZ : after .keyZ { st 0x51 0x1E with images := ⟨[], [], [0x30]⟩ } = some (0x30, 0x16, ok 0x30) := by decide +kernel
theorem test_keyNop : seen (.keyNop 0x78) (st 0x51 0x1E) = [] := by decide
-- V11, KEYBOARD.
theorem test_keyChar : seen (.keyChar 0x7E) { st 0x51 0x1E with imode := .keyboard } = [wA 0x7E, wB 0x1C] := by decide
theorem test_keyboardNop : seen (.keyboardNop 0x0A) { st 0x51 0x1E with imode := .keyboard } = [] := by decide
theorem test_quit : ended .quit (st 0x51 0x1E) = some (.terminated, .none, .empty) := by decide
-- P3, input 9: the status rendered after it.
theorem test_keyChar_status : (match exec (.keyChar 0x61) { st 0x51 0x1F with imode := .keyboard } with
    | .next t => t.status
    | _ => none) = some ⟨.keyboard, "RUN  ", true, 0x61⟩ := by decide
theorem test_toggle : (match exec .toggle { st 0x51 0x1E with imode := .keyboard } with
    | .next t => some t.imode
    | _ => none) = some .control := by decide
-- V12.
theorem test_release : seen .release (st 0x00 0x18) = [.write .rel .portB 0x1C, .write .rel .portB 0x1E] := by decide
-- V13: a release whose second write fails; a setter whose write fails.
theorem test_release_fails : after .release { st 0x00 0x18 with env := ⟨[.ok, .fail 0x55], [], []⟩ } =
    some (0x00, 0x1C, none) := by decide
theorem test_setMode_fails : after (.setMode 0x18) { st 0x00 0x16 with env := ⟨[.fail 0x55], [], []⟩ } =
    some (0x00, 0x16, some ⟨5, 0x00⟩) := by decide
-- R148, R31, R67: the status is rendered by getters, so a refusal does not outlive a no-op key.
theorem test_status_getters_answer : after (.keyNop 0x78) { st 0x51 0x1E with lastSt := 6, resp := some ⟨6, 0x00⟩ } =
    some (0x51, 0x1E, ok 0x51) := by decide
-- R179, R148, D32: the response of each command of a key: GET_DATA and SET_DATA, then the three getters of the status.
theorem test_keyHex7_responses : responses .keyHex7 (st 0x51 0x1E) =
    [⟨0, 0x51⟩, ⟨0, 0x00⟩, ⟨0, 0x18⟩, ⟨0, 0x00⟩, ⟨0, 0x17⟩] := by decide
theorem test_pulse_fails_responses : responses .pulse { st 0x00 0x06 with env := ⟨[.ok, .fail 0x55], [], []⟩ } =
    [⟨5, 0x00⟩] := by decide
-- R147, R168 (3): REL faults in IDLE, between the two commands of a character key: no command answers for it.
theorem test_rel_fault_between_commands :
    let s : State := { st 0x00 0x1E with
      imode := .keyboard, env := ⟨[.ok, .fail 0x55], [], [⟨false, 0, 0⟩, ⟨false, 0, 0⟩, ⟨false, 1, 1⟩]⟩ }
    seen (.keyChar 0x61) s = [wA 0x61, .writeFail .rel .portB 0x1E] ∧ responses (.keyChar 0x61) s = [⟨0, 0x00⟩] ∧
    after (.keyChar 0x61) s = some (0x61, 0x1E, ok 0x00) := by decide
-- R147, R172: the next input falls between REL's two writes.
theorem test_input_between_rel_steps : (match step { st 0x00 0x18 with inputs := [.events 1 1, .offer (.key 0x71)] } with
    | .next t => some (t.run, t.trace, t.rel, t.inputs)
    | _ => none) =
    some (.idle, [.write .rel .portB 0x1C], some ⟨.stb, .start⟩, [.offer (.key 0x71)]) := by decide
-- U19: a command offered in BUSY waits.
theorem test_busy_command_waits : exec .getData { st 0x51 0x1E with run := .busy } = .next { st 0x51 0x1E with run := .busy } := by
  rfl
-- V13: after the fault a command is not taken.
theorem test_faulted_takes_nothing : exec .getData { st 0x00 0x16 with run := .faulted } = .fault (.notTaken .faulted) := by
  rfl
-- R206: a killed pulse leaves the line asserted at the port, and the next attach is warm.
theorem test_pulse_killed : ended .pulse { st 0x12 0x06 with env := ⟨[], [], [⟨false, 0, 0⟩, ⟨false, 0, 0⟩, ⟨true, 0, 0⟩]⟩ } =
    some (.unattached, .none, .empty) := by decide
-- R180: a kill between REL's two writes, inside a command and in IDLE.
theorem test_kill_between_rel_steps : seen .pulse { st 0x00 0x18 with env := ⟨[], [], [⟨true, 1, 1⟩]⟩ } =
    [.write .rel .portB 0x1C] := by decide
theorem test_restart_between_rel_steps : (match step { st 0x00 0x18 with inputs := [.restart 1 1] } with
    | .next t => some (t.run, t.trace, t.periph.portB)
    | _ => none) = some (.unattached, [.write .rel .portB 0x1C], 0x1C) := by decide
-- The step fetches, decodes and runs the word placed by `withFetchWord`.
theorem test_step_runs_the_word_placed :
    step (State.reset.withFetchWord 16 0x3018) = exec (.setMode 0x18) State.reset := by rfl
theorem test_step_runs_the_event_placed : step (State.reset.withFetchWord 1 1) = exec .release State.reset := by rfl

/-! Witnesses: for each statement with hypotheses, a state and operands that meet them all together; for a statement of
several clauses, one for each clause, at the ends of its range. -/

/-- The reset state with an environment of these answers. -/
def withEnv (pio : List PioReply) (img : List ImgReply) (sched : List Slot) : State :=
  { State.reset with env := ⟨pio, img, sched⟩ }

/-- An unattached session on a peripheral with these direction registers. -/
def unattached (dirA dirB : Byte) (pio : List PioReply) : State :=
  { State.reset with run := .unattached, periph := ⟨dirA, dirB, 0x00, 0x00⟩, env := ⟨pio, [], []⟩ }

/-- A byte that is not the direction byte "all output". -/
def notOutput : Byte := ~~~Config.dirAllOutput

theorem witness_notOutput : notOutput ≠ Config.dirAllOutput := by
  intro h
  have h := congrArg (fun b : Byte => b.getLsbD 0) h
  simp [notOutput] at h

theorem witness_Reliable : Reliable State.reset.env := by simp [Reliable, State.reset]
theorem witness_NoKill : NoKill State.reset.env := by simp [NoKill, State.reset]
theorem witness_Calm : Calm State.reset.env := by simp [Calm, Reliable, State.reset]
/-- For every statement whose hypothesis on the state is `Ready`. -/
theorem witness_Ready : Ready State.reset := ⟨rfl, rfl, witness_Calm⟩
/-- `Ready` is met with answers still to come, too. -/
theorem witness_Ready_answers : Ready (withEnv [.ok] [.ok] [⟨false, 0, 0⟩]) := by
  simp [Ready, Calm, Reliable, withEnv, State.reset]

theorem witness_DecodeOfEncodeIsTheInstruction :
    (Instr.keyChar 0x7E).wellFormed = true ∧ (Instr.keyChar 0x7E).decodesIn .keyboard = true ∧
    (Instr.keyNop 0x7F).wellFormed = true ∧ (Instr.keyNop 0x7F).decodesIn .control = true ∧
    (Instr.reservedCmd 0xB003).wellFormed = true ∧ (Instr.setData 0xFF).wellFormed = true := by decide
/-- Words of each kind R73 lists, at the ends of its range; and a SET_MODE. -/
theorem witness_ReservedCommandWordsAreExactlyThoseListed :
    (0xE000#16).toNat / 4096 = 0xE ∧ (0xFFFF#16).toNat / 4096 = 0xF ∧
    (0x0100#16).toNat / 256 % 16 ≠ 0 ∧ (0xDF00#16).toNat / 256 % 16 ≠ 0 ∧
    ((0x0001#16).toNat / 4096 = 0x0 ∧ (0x0001#16).toNat % 256 ≠ 0) ∧
    ((0xD0FF#16).toNat / 4096 = 0xD ∧ (0xD0FF#16).toNat % 256 ≠ 0) ∧
    ((0x5002#16).toNat / 4096 = 0x5 ∧ (0x5002#16).toNat % 256 / 2 ≠ 0) ∧
    ((0xB003#16).toNat / 4096 = 0xB ∧ (0xB003#16).toNat % 256 % 4 = 3) ∧
    ((0xB004#16).toNat / 4096 = 0xB ∧ (0xB004#16).toNat % 256 / 4 ≠ 0) ∧
    ((0x30FF#16).toNat / 4096 = 0x3 ∧ (0x30FF#16).toNat / 256 % 16 = 0) ∧
    State.reset.run = .idle ∧ State.reset.seqPc = .empty := by
  refine ⟨?_, ?_, ?_, ?_, ⟨?_, ?_⟩, ⟨?_, ?_⟩, ⟨?_, ?_⟩, ⟨?_, ?_⟩, ⟨?_, ?_⟩, ⟨?_, ?_⟩, rfl, rfl⟩ <;> decide
theorem witness_KeySymbolsAreFoldedThenTestedInOrder :
    (0x41 ≤ (0x5A#8).toNat ∧ (0x5A#8).toNat ≤ 0x5A) ∧ (0x41 ≤ (0x41#8).toNat ∧ (0x41#8).toNat ≤ 0x5A) ∧
    (∀ c ∈ [0x20#8, 0x40#8, 0x5B#8, 0x7E#8],
      0x20 ≤ c.toNat ∧ c.toNat ≤ 0x7E ∧ ¬(0x41 ≤ c.toNat ∧ c.toNat ≤ 0x5A) ∧ c ≠ 0x71#8) ∧
    (∀ c ∈ [0x01#8, 0x1F#8, 0x7F#8, 0xFF#8], c ≠ 0x00#8 ∧ (c.toNat < 0x20 ∨ 0x7E < c.toNat)) := by decide
theorem witness_StepRunsTheDecodedInstruction :
    let s := State.reset.withFetchWord 16 0x3018
    s.run = .idle ∧ s.inputs = [.offer (.cmd 0x3018)] ∧ decode s.imode (.cmd 0x3018) = .setMode 0x18 := by
  refine ⟨rfl, rfl, by decide⟩
theorem witness_IdleWithoutInputDoesNothing :
    State.reset.run = .idle ∧ State.reset.inputs = [] ∧ State.reset.relPending = 0 ∧ State.reset.rel = none := by
  refine ⟨rfl, rfl, rfl, rfl⟩
theorem witness_NothingIsTakenOutsideALiveSession :
    Instr.keyZ ≠ .release ∧ (∀ r ∈ [RunState.unattached, .faulted, .terminated], r ≠ .idle ∧ r ≠ .busy) ∧
    { State.reset with run := .busy }.run = .busy := by
  decide
theorem witness_EndedSessionTakesOnlyARestart :
    let s : State := { State.reset with run := .faulted, inputs := [.restart 1 1] }
    let u : State := { State.reset with run := .terminated, inputs := [.offer .evt, .restart 0 0] }
    s.run = .faulted ∧ s.inputs = .restart 1 1 :: [] ∧ u.run = .terminated ∧
    ∀ a n rest, u.inputs ≠ .restart a n :: rest := by
  refine ⟨rfl, rfl, rfl, fun a n rest h => ?_⟩
  simp at h
theorem witness_QuitEndsTheSession :
    let s : State := { State.reset with inputs := .events 1 1 :: .offer (.key 0x71#8) :: [] }
    s.run = .idle ∧ s.cfg = Params.decided ∧ Reliable s.env ∧ s.relPending = 0 ∧ s.rel = none ∧
    s.inputs = .events 1 1 :: .offer (.key 0x71#8) :: [] := by
  exact ⟨rfl, rfl, witness_Reliable, rfl, rfl, rfl⟩
theorem witness_mode_arguments :
    (∀ m ∈ [0x00#8, 0x18#8], m ∈ [0x00#8, 0x08#8, 0x10#8, 0x18#8]) ∧
    (∀ m ∈ [0x01#8, 0x07#8, 0x09#8, 0x19#8, 0x1F#8, 0xFF#8], m ∉ [0x00#8, 0x08#8, 0x10#8, 0x18#8]) := by decide
/-- For the refused bytes and the reserved words. -/
theorem witness_refusals : State.reset.run = .idle ∧ State.reset.seqPc = .empty := ⟨rfl, rfl⟩
/-- For the clauses of a calm environment, the release among them, and for the read that fails. -/
theorem witness_PortSourceSettersReadPortB :
    let s : State := { State.reset with cfg := ⟨.port, true⟩ }
    let u : State := { withEnv [.fail 0x55] [] [] with cfg := ⟨.port, true⟩ }
    s.run = .idle ∧ s.cfg = ⟨.port, true⟩ ∧ 0x18#8 ∈ [0x00#8, 0x08#8, 0x10#8, 0x18#8] ∧ Calm s.env ∧
    s.relPending = 0 ∧ s.rel = none ∧
    u.run = .idle ∧ u.cfg = ⟨.port, true⟩ ∧ u.env.pio = .fail 0x55 :: [] ∧ u.env.sched = [] := by
  refine ⟨rfl, rfl, by decide, witness_Calm, rfl, rfl, rfl, rfl, rfl, rfl⟩
theorem witness_SettersCommuteAndAreIdempotent :
    Instr.setMode 0x18 ≠ .setMp true ∧ Instr.setEf4 true ≠ .setStb true ∧ Ready State.reset := by
  exact ⟨by decide, by decide, witness_Ready⟩
/-- With a release interleaved and a write that fails. -/
theorem witness_PortBOperationsLeavePortA :
    let s := withEnv [.ok, .fail 0x55] [] [⟨false, 1, 1⟩]
    NoKill s.env ∧ ∃ t, exec .pulse s = .next t ∧ t.run = .faulted := by
  exact ⟨by simp [NoKill, withEnv], _, rfl, rfl⟩
theorem witness_CompositesEndWithEf4Deasserted :
    let s : State := { withEnv [] [] [⟨false, 1, 1⟩] with images := ⟨[0xF8], [], []⟩ }
    s.cfg = Params.decided ∧ (∃ t, exec .pulse s = .next t ∧ t.run = .idle) ∧
    (∃ t, exec .runMonitor s = .next t ∧ t.run = .idle) ∧ (∃ t, exec .loadMonitor s = .next t ∧ t.run = .idle) ∧
    s.images.bootstrap ≠ [] ∧ (∃ t, exec .loadProgram0 s = .next t ∧ t.run = .idle) := by
  refine ⟨rfl, ⟨_, rfl, rfl⟩, ⟨_, rfl, rfl⟩, ⟨_, rfl, ?_⟩, by decide, _, rfl, rfl⟩
  decide +kernel
/-- Undisturbed, and with a release interleaved among the getters of the status. -/
theorem witness_NoOpKeysOnlyRenderStatus :
    let s := withEnv [] [] [⟨false, 1, 2⟩]
    State.reset.run = .idle ∧ Calm State.reset.env ∧ s.run = .idle ∧ NoKill s.env ∧
    seen (.keyNop 0x78) s = [.write .rel .portB 0x16, .write .rel .portB 0x16] := by
  refine ⟨rfl, witness_Calm, rfl, by simp [NoKill, withEnv], by decide⟩
/-- With a release interleaved. -/
theorem witness_OnlyToggleChangesTheInteractionMode :
    let s := withEnv [] [] [⟨false, 1, 2⟩]
    NoKill s.env ∧ Instr.keyZ ≠ .toggle ∧ ∃ t, exec .keyZ s = .next t := by
  exact ⟨by simp [NoKill, withEnv], by decide, _, rfl⟩
theorem witness_ReleaseDeassertsBothLines :
    let s : State := { State.reset with run := .busy }
    (State.reset.run = .idle ∧ s.run = .busy) ∧ s.cfg = Params.decided ∧ Reliable s.env ∧ s.relPending = 0 ∧
    s.rel = none := by
  exact ⟨⟨rfl, rfl⟩, rfl, witness_Reliable, rfl, rfl⟩
theorem witness_EveryPendingReleaseIsHandledOnce :
    let s : State := { State.reset with relPending := 3, cfg := ⟨.mirror, false⟩ }
    s.run = .idle ∧ s.cfg.rmwSource = .mirror ∧ Reliable s.env ∧ s.rel = none := by
  exact ⟨rfl, rfl, witness_Reliable, rfl⟩
theorem witness_ReleaseLeavesEverythingElse :
    State.reset.cfg = Params.decided ∧ ∃ t, exec .release State.reset = .next t := ⟨rfl, _, rfl⟩
theorem witness_ReleaseDuringTheHoldCutsThePulseShort :
    let s := withEnv [] [] [⟨false, 0, 0⟩, ⟨false, 0, 0⟩, ⟨false, 1, 2⟩]
    s.run = .idle ∧ s.cfg = Params.decided ∧ s.relPending = 0 ∧ s.rel = none ∧
    s.env = ⟨[], [], [⟨false, 0, 0⟩, ⟨false, 0, 0⟩, ⟨false, 1, 2⟩]⟩ := by
  refine ⟨rfl, rfl, rfl, rfl, rfl⟩
/-- With one release pending and one that arrives at the setter's second point, both handled there; with an event half
handled at the start, at either line; and with SET_EF4 true, and SET_STB true, between REL's two steps. -/
theorem witness_AtomicSettersLoseNoUpdate :
    let s : State := { withEnv [] [] [⟨false, 0, 0⟩, ⟨false, 1, 4⟩] with relPending := 1 }
    let u (l : Line) : State := { withEnv [] [] [⟨false, 0, 2⟩] with rel := some ⟨l, .start⟩ }
    let w := withEnv [] [] [⟨false, 1, 1⟩, ⟨false, 0, 1⟩]
    (s.run = .idle ∧ s.cfg = Params.decided ∧ Reliable s.env ∧ NoKill s.env ∧
      ((s.env.sched.take 2).map Slot.arrivals).sum = 1 ∧
      ∃ t, exec (.setMode 0x18) s = .next t ∧ t.relPending = 0 ∧ t.rel = none) ∧
    (∀ l, (u l).run = .idle ∧ (u l).cfg = Params.decided ∧ Reliable (u l).env ∧ NoKill (u l).env ∧
      ∃ t, exec (.setMp true) (u l) = .next t ∧ t.relPending = 0 ∧ t.rel = none) ∧
    (w.run = .idle ∧ w.cfg = Params.decided ∧ Reliable w.env ∧ NoKill w.env ∧
      Line.ef4 ∉ (relLines (relLine w) (1 + 1)).drop 1 ∧ Line.stb ∉ (relLines (relLine w) (0 + 0)).drop 0 ∧
      (∃ t, exec (.setEf4 true) w = .next t ∧ t.ctl = 0x12) ∧ ∃ t, exec (.setStb true) w = .next t ∧ t.ctl = 0x16) := by
  refine ⟨⟨rfl, rfl, by simp [Reliable, withEnv], by simp [NoKill, withEnv], by decide, _, rfl, rfl, rfl⟩, fun l => ?_,
    rfl, rfl, by simp [Reliable, withEnv], by simp [NoKill, withEnv], by decide, by decide, ⟨_, rfl, by decide⟩, _, rfl, by decide⟩
  cases l <;>
    exact ⟨rfl, rfl, by simp [Reliable, withEnv], by simp [NoKill, withEnv], _, rfl, rfl, rfl⟩
/-- With a release handled between the setter and the getter. -/
theorem witness_SettersAndGettersHaveTheSourcesThreeProperties :
    let s := withEnv [] [] [⟨false, 0, 0⟩, ⟨false, 1, 1⟩, ⟨false, 0, 1⟩]
    Ready State.reset ∧ s.run = .idle ∧ Reliable s.env ∧ NoKill s.env ∧
    ∃ t u, exec (.setData 0x80) s = .next t ∧ exec .getData t = .next u ∧ u.run = .idle ∧ u.ctl = 0x16 := by
  exact ⟨witness_Ready, rfl, by simp [Reliable, withEnv], by simp [NoKill, withEnv], _, _, rfl, rfl, rfl, by decide⟩
theorem witness_FailedSetterWriteEntersTheFault :
    let s := withEnv [.fail 0x55] [] []
    s.run = .idle ∧ s.cfg = Params.decided ∧ s.env.pio = .fail 0x55 :: [] ∧ s.env.sched = [] := by
  refine ⟨rfl, rfl, rfl, rfl⟩
/-- For the pulse, the release and the character key whose second write fails. -/
theorem witness_second_write_fails :
    let s := withEnv [.ok, .fail 0x55] [] []
    s.run = .idle ∧ s.cfg = Params.decided ∧ s.relPending = 0 ∧ s.rel = none ∧
    s.env.pio = .ok :: .fail 0x55 :: [] ∧ s.env.sched = [] := by
  refine ⟨rfl, rfl, rfl, rfl, rfl, rfl⟩
theorem witness_UnopenableImageStopsTheLoad :
    let s := withEnv [] [.fail] []
    s.run = .idle ∧ s.env.img = .fail :: [] ∧ s.env.sched = [] := by
  refine ⟨rfl, rfl, rfl⟩
/-- For each image, a stream that fails at once, and one that fails after all its bytes. -/
theorem witness_BrokenImageLeavesTheBytesApplied :
    ∀ p ∈ [(Instr.loadProgram0, ImageId.bootstrap), (.loadProgram1, .monitor), (.loadProgram2, .bios)],
      let s : State := { withEnv [] [.ok, .fail] [] with images := ⟨[0x30], [0x30], [0x30]⟩ }
      let u : State := { withEnv [] [.ok, .ok, .fail] [] with images := ⟨[0x30], [0x30], [0x30]⟩ }
      (s.run = .idle ∧ s.cfg = Params.decided ∧ (∀ r ∈ s.env.pio, r = .ok) ∧ s.images.bytes p.2 = [] ++ [0x30] ∧
        s.env.img = .ok :: (List.replicate 0 .ok ++ .fail :: []) ∧ s.env.sched = []) ∧
      (u.run = .idle ∧ u.cfg = Params.decided ∧ (∀ r ∈ u.env.pio, r = .ok) ∧ u.images.bytes p.2 = [0x30] ++ [] ∧
        u.env.img = .ok :: (List.replicate 1 .ok ++ .fail :: []) ∧ u.env.sched = []) := by
  intro p hp
  refine ⟨⟨rfl, rfl, by simp [withEnv], ?_, rfl, rfl⟩, rfl, rfl, by simp [withEnv], ?_, rfl, rfl⟩ <;>
    (simp only [List.mem_cons, List.not_mem_nil, or_false] at hp; obtain rfl | rfl | rfl := hp <;> rfl)
theorem witness_MissingMonitorImageStopsLoadMonitor :
    let s : State := { withEnv [] [.ok, .ok, .ok, .fail] [] with images := ⟨[0xF8], [], []⟩ }
    s.run = .idle ∧ s.cfg = Params.decided ∧ (∀ r ∈ s.env.pio, r = .ok) ∧ s.env.sched = [] ∧
    s.env.img = List.replicate (s.images.bootstrap.length + 2) .ok ++ .fail :: [] := by
  refine ⟨rfl, rfl, by simp [withEnv], rfl, rfl⟩
/-- Both ports warm, and both cold. -/
theorem witness_AttachJudgesEachPortAlone :
    let s := unattached Config.dirAllOutput Config.dirAllOutput []
    let u := unattached notOutput notOutput []
    (s.run = .unattached ∧ Reliable s.env ∧ NoKill s.env ∧ s.periph.dirA = Config.dirAllOutput ∧
      s.periph.dirB = Config.dirAllOutput) ∧
    (u.run = .unattached ∧ Reliable u.env ∧ NoKill u.env ∧ u.periph.dirA ≠ Config.dirAllOutput ∧
      u.periph.dirB ≠ Config.dirAllOutput) := by
  refine ⟨⟨rfl, ?_, ?_, rfl, rfl⟩, rfl, ?_, ?_, witness_notOutput, witness_notOutput⟩ <;>
    simp [Reliable, NoKill, unattached]
/-- One state for each clause: port A cold and warm, then port B cold and warm after a port A of either outcome. -/
theorem witness_FailedAttachKeepsTheStepsDone :
    (∀ p ∈ [[.fail 0x55], [.ok, .fail 0x55], [.ok, .ok, .fail 0x55], [.ok, .ok, .ok, .fail 0x55],
          [.ok, .ok, .ok, .ok, .fail 0x55], [.ok, .ok, .ok, .ok, .ok, .fail 0x55]],
      let s := unattached notOutput notOutput p
      s.run = .unattached ∧ NoKill s.env ∧ s.env.pio = p ∧ s.periph.dirA ≠ Config.dirAllOutput ∧
        s.periph.dirB ≠ Config.dirAllOutput) ∧
    (∀ p ∈ [[.ok, .ok, .fail 0x55], [.ok, .ok, .ok, .fail 0x55], [.ok, .ok, .ok, .ok, .fail 0x55]],
      let s := unattached Config.dirAllOutput notOutput p
      s.run = .unattached ∧ NoKill s.env ∧ s.env.pio = p ∧ s.periph.dirA = Config.dirAllOutput ∧
        s.periph.dirB ≠ Config.dirAllOutput) ∧
    (∀ p ∈ [[.ok, .fail 0x55], [.ok, .ok, .ok, .fail 0x55]],
      let s := unattached Config.dirAllOutput Config.dirAllOutput p
      s.run = .unattached ∧ NoKill s.env ∧ s.env.pio = p ∧ s.periph.dirA = Config.dirAllOutput ∧
        s.periph.dirB = Config.dirAllOutput) ∧
    (let s := unattached notOutput Config.dirAllOutput [.ok, .ok, .ok, .ok, .fail 0x55]
     s.run = .unattached ∧ NoKill s.env ∧ s.env.pio = [.ok, .ok, .ok] ++ .ok :: .fail 0x55 :: [] ∧
       s.periph.dirA ≠ Config.dirAllOutput ∧ s.periph.dirB = Config.dirAllOutput) := by
  refine ⟨fun p _ => ⟨rfl, ?_, rfl, witness_notOutput, witness_notOutput⟩, fun p _ => ⟨rfl, ?_, rfl, rfl, witness_notOutput⟩,
    fun p _ => ⟨rfl, ?_, rfl, rfl, rfl⟩, rfl, ?_, rfl, witness_notOutput, rfl⟩ <;>
    simp [NoKill, unattached]
/-- After a fault and after quit. -/
theorem witness_ColdAttachReachesTheResetRegisters :
    ∀ r ∈ [RunState.faulted, .terminated],
      let s : State := { unattached notOutput notOutput [] with run := r, inputs := [.restart 0 0] }
      (s.run = .faulted ∨ s.run = .terminated) ∧ s.inputs = .restart 0 0 :: [] ∧ Reliable s.env ∧ NoKill s.env ∧
        s.periph.dirA ≠ Config.dirAllOutput ∧ s.periph.dirB ≠ Config.dirAllOutput := by
  intro r hr
  exact ⟨by simpa using hr, rfl, by simp [Reliable, unattached], by simp [NoKill, unattached], witness_notOutput,
    witness_notOutput⟩
/-- For the invariants every step keeps: a state that meets them all, and a step from it that writes a port. -/
theorem witness_invariants :
    let s := State.reset.withFetchWord 16 0x3018
    s.cfg.rmwAtomic = true ∧ Coherent s ∧ MirrorInv s ∧ SeqPcInv s ∧ CauseInv s ∧ OutputInv s ∧ LastStInv s ∧
    ∃ t, step s = .next t ∧ t.ctl = 0x1E := by
  refine ⟨rfl, ⟨rfl, rfl⟩, fun _ => ⟨rfl, rfl⟩, ⟨fun _ => rfl, by decide⟩,
    by simp [CauseInv, State.withFetchWord, offerOfBits, State.reset], fun _ => ⟨rfl, rfl⟩,
    fun _ => .inl rfl, _, rfl, rfl⟩

end Sys2Proof.Tests
end

section
/-! PROOFS. No step changes an image or a parameter, and the observer's record only grows (rules R47, R55): one relation
between two states, kept by every update an instruction, attach and a restart are made of. -/

namespace Sys2Proof.Safety

open Sys2Proof.Machine

/-- `t` has the images and parameters of `s`, and a record that extends the one of `s`. -/
structure Extends (s t : State) : Prop where
  images : t.images = s.images
  cfg : t.cfg = s.cfg
  trace : s.trace <+: t.trace

theorem Extends.refl (s : State) : Extends s s := ⟨rfl, rfl, List.prefix_rfl⟩

/-- The statement's form. -/
theorem Extends.exists_append {s t : State} (h : Extends s t) :
    t.images = s.images ∧ t.cfg = s.cfg ∧ ∃ es, t.trace = s.trace ++ es :=
  let ⟨es, e⟩ := h.trace
  ⟨h.images, h.cfg, es, e.symm⟩

/-- An update that leaves images, parameters and record alone. -/
theorem Extends.silent {s t u : State} (h : Extends s t) (hi : u.images = t.images) (hc : u.cfg = t.cfg)
    (ht : u.trace = t.trace) : Extends s u :=
  ⟨hi.trans h.images, hc.trans h.cfg, ht ▸ h.trace⟩

/-- An update that leaves images and parameters alone and records one event. -/
theorem Extends.event {s t u : State} {e : Event} (h : Extends s t) (hi : u.images = t.images) (hc : u.cfg = t.cfg)
    (ht : u.trace = t.trace ++ [e]) : Extends s u :=
  ⟨hi.trans h.images, hc.trans h.cfg, ht ▸ h.trace.trans (List.prefix_append ..)⟩

/-- A fault records the response of the command in progress, when there is one (R168). -/
theorem Extends.raise {s t : State} (c : Cause) (h : Extends s t) : Extends s (raise c t) := by
  by_cases hb : t.run = .busy
  · exact h.event rfl rfl ((raise_trace c t).trans (if_pos hb))
  · exact h.silent rfl rfl ((raise_trace c t).trans (if_neg hb))

theorem Extends.adopt {s t : State} (x : Port) (v : Byte) (fresh : Bool) (h : Extends s t) :
    Extends s (adopt x v fresh t) := by
  cases x with
  | a => exact h.silent rfl rfl rfl
  | b => exact h.silent rfl rfl rfl

theorem Extends.newSession {s t : State} (h : Extends s t) : Extends s (newSession t) := h.silent rfl rfl rfl

/-- Every update a command or symbol is made of. -/
theorem extends_closedData (s : State) : ClosedData (Extends s) where
  popPio _ h := h.silent rfl rfl rfl
  log _ _ h := h.event rfl rfl rfl
  setPortB _ _ h := h.silent rfl rfl rfl
  setCtl _ _ h := h.silent rfl rfl rfl
  setRel _ _ h := h.silent rfl rfl rfl
  setRelPending _ _ h := h.silent rfl rfl rfl
  raise c _ _ h := h.raise c
  popSched _ _ _ _ h := h.silent rfl rfl rfl
  kill _ _ _ _ _ _ _ _ h := h.newSession
  busy _ _ h := h.silent rfl rfl rfl
  pos _ _ _ _ h := h.silent rfl rfl rfl
  respond _ _ _ _ _ h := h.event rfl rfl rfl
  setStatus _ _ h := h.event rfl rfl rfl
  setPortA _ _ h := h.silent rfl rfl rfl
  setData _ _ h := h.silent rfl rfl rfl
  popImg _ h := h.silent rfl rfl rfl
  setHandle _ _ h := h.silent rfl rfl rfl

/-- Attach, whatever its outcome. -/
theorem Extends.attach {s t : State} (h : Extends s t) : Extends s (attach t) := by
  refine attach_keeps ?log ?popPio ?setReg ?setSched ?raise ?adopt ?startSession ?newSession h
  case log => exact fun _ _ h => h.event rfl rfl rfl
  case popPio => exact fun _ h => h.silent rfl rfl rfl
  case setReg => exact fun _ _ _ h => h.silent rfl rfl rfl
  case setSched => exact fun _ _ h => h.silent rfl rfl rfl
  case raise => exact fun c _ _ h => h.raise c
  case adopt => exact fun x v fresh _ h => h.adopt x v fresh
  case startSession => exact fun _ h => h.silent rfl rfl rfl
  case newSession => exact fun _ h => h.newSession

/-- Any instruction; quit and toggle change `run`, `loop` and `imode` directly. -/
theorem Extends.exec {s t u : State} {i : Instr} (h : Extends s t) (e : exec i t = .next u) : Extends s u :=
  (extends_closedData s).execAny (fun _ _ h => h.silent rfl rfl rfl) (fun _ _ h => h.silent rfl rfl rfl) h e

/-- Every step ends in a state that extends the one it began in. -/
theorem step_extends {s t : State} (e : step s = .next t) : Extends s t := by
  have K := (extends_closedData s).toClosed
  refine step_keeps ?instruction ?inputs ?drain ?deliver ?restart ?attach (Extends.refl s) e
  case instruction => exact fun _ _ h e => h.exec e
  case inputs => exact fun _ h => h.silent rfl rfl rfl
  case drain => exact fun h => K.relDrain h
  case deliver => exact fun a n _ h => K.deliver a n h
  case restart => exact fun a n _ h => K.restart (fun _ h => h.newSession) a n h
  case attach => exact fun _ h => h.attach

/-- Settles O60, by the relation `Extends`, which every part of a step keeps. -/
theorem everyStepKeepsImagesAndExtendsTheRecord : Obligations.EveryStepKeepsImagesAndExtendsTheRecord :=
  fun _ _ e => (step_extends e).exists_append

end Sys2Proof.Safety
end

section
/-! PROOFS. What every step keeps of the control registers `run`, `seq_pc`, `cause` and `last_st` (rules R29 to R31): a
property that sees these four alone needs one small fact for each update that changes one of them. -/

namespace Sys2Proof.Safety

open Sys2Proof.Machine

/-- A property of the control registers that each of their updates keeps. -/
structure ControlClosed (P : State → Prop) : Prop where
  sees : ∀ {s t : State}, t.run = s.run → t.seqPc = s.seqPc → t.cause = s.cause → t.lastSt = s.lastSt → P s → P t
  raise : ∀ c s, c ≠ .none → P s → P (raise c s)
  newSession : ∀ s, P (newSession s)
  startSession : ∀ s, P (startSession s)
  busy : ∀ s, s.run = .idle → P s → P (s.setRun .busy)
  pos : ∀ pc s, s.run = .busy → pc.frames.length ≤ 3 → P s → P (s.setSeqPc pc)
  respond : ∀ st v s, st = 0 ∨ st = 2 ∨ st = 6 → s.run = .idle ∨ s.run = .busy → P s → P (respond st v s)
  quit : ∀ s, s.run = .idle → P s → P { s with run := .terminated, loop := .exitedSuccess }

variable {P : State → Prop}

/-- No other update of an instruction changes a control register. -/
theorem ControlClosed.closedData (K : ControlClosed P) : ClosedData P where
  popPio _ := K.sees rfl rfl rfl rfl
  log _ _ := K.sees rfl rfl rfl rfl
  setPortB _ _ := K.sees rfl rfl rfl rfl
  setCtl _ _ := K.sees rfl rfl rfl rfl
  setRel _ _ := K.sees rfl rfl rfl rfl
  setRelPending _ _ := K.sees rfl rfl rfl rfl
  raise := K.raise
  popSched _ _ _ _ := K.sees rfl rfl rfl rfl
  kill _ _ _ t _ _ _ _ _ := K.newSession t
  busy := K.busy
  pos := K.pos
  respond := K.respond
  setStatus _ _ := K.sees rfl rfl rfl rfl
  setPortA _ _ := K.sees rfl rfl rfl rfl
  setData _ _ := K.sees rfl rfl rfl rfl
  popImg _ := K.sees rfl rfl rfl rfl
  setHandle _ _ := K.sees rfl rfl rfl rfl

theorem ControlClosed.adopt (K : ControlClosed P) (x : Port) (v : Byte) (fresh : Bool) {s : State} (h : P s) :
    P (adopt x v fresh s) := by
  cases x with
  | a => exact K.sees (s := s) rfl rfl rfl rfl h
  | b => exact K.sees (s := s) rfl rfl rfl rfl h

theorem ControlClosed.attach (K : ControlClosed P) {s : State} (h : P s) : P (attach s) :=
  attach_keeps K.closedData.log K.closedData.popPio (fun _ _ _ => K.sees rfl rfl rfl rfl)
    (fun _ _ => K.sees rfl rfl rfl rfl) K.raise (fun x v fresh _ => K.adopt x v fresh)
    (fun s _ => K.startSession s) (fun s _ => K.newSession s) h

theorem ControlClosed.exec (K : ControlClosed P) {i : Instr} {s t : State} (h : P s) (e : exec i s = .next t) : P t :=
  K.closedData.execAny K.quit (fun _ _ => K.sees rfl rfl rfl rfl) h e

/-- Every step keeps a property that each update of the control registers keeps. -/
theorem ControlClosed.step (K : ControlClosed P) {s t : State} (h : P s) (e : step s = .next t) : P t := by
  have C := K.closedData.toClosed
  refine step_keeps ?instruction ?inputs ?drain ?deliver ?restart ?attach h e
  case instruction => exact fun _ _ h e => K.exec h e
  case inputs => exact fun _ => K.sees rfl rfl rfl rfl
  case drain => exact C.relDrain
  case deliver => exact fun a n _ h => C.deliver a n h
  case restart => exact fun a n _ h => C.restart (fun s _ => K.newSession s) a n h
  case attach => exact fun _ h => K.attach h

/-- A position is taken in BUSY alone, where its depth is all that is asked; a fault keeps it (R30, R168). -/
theorem seqPcInv_closed : ControlClosed SeqPcInv where
  sees hr hp _ _ h := by unfold SeqPcInv; rwa [hr, hp]
  raise _ _ _ h := ⟨by simp, h.2⟩
  newSession _ := ⟨fun _ => rfl, by simp [SeqPc.empty]⟩
  startSession _ := ⟨fun _ => rfl, by simp [SeqPc.empty]⟩
  busy _ _ h := ⟨by simp, h.2⟩
  pos _ _ hb hd _ := ⟨by simp [hb], hd⟩
  respond _ _ _ _ _ _ := ⟨fun _ => rfl, by simp [SeqPc.empty]⟩
  quit _ hi h := ⟨fun _ => h.1 (.inr (.inl hi)), h.2⟩

/-- Settles O57: a command's positions are at most three frames deep, and its end and a new session empty `seq_pc`. -/
theorem everyStepKeepsTheSequencerPosition : Obligations.EveryStepKeepsTheSequencerPosition :=
  fun _ _ h e => seqPcInv_closed.step h e

/-- Outside FAULTED no fault is recorded. -/
theorem CauseInv.none {s : State} (h : CauseInv s) (hr : s.run ≠ .faulted) : s.cause = .none :=
  not_not.1 fun hc => hr (h.1 hc)

/-- With no fault recorded, FAULTED is the one state excluded. -/
theorem causeInv_of_none {s : State} (hc : s.cause = .none) (hr : s.run ≠ .faulted) : CauseInv s :=
  iff_of_false (fun h => h hc) hr

/-- FAULTED is entered with a cause recorded, and a new session leaves both (R31, R168, R169). -/
theorem causeInv_closed : ControlClosed CauseInv where
  sees hr _ hc _ h := by unfold CauseInv; rwa [hr, hc]
  raise _ _ hc _ := iff_of_true hc rfl
  newSession _ := causeInv_of_none rfl (by simp)
  startSession _ := causeInv_of_none rfl (by simp)
  busy _ hi h := causeInv_of_none (h.none (by simp [hi])) (by simp)
  pos _ _ _ _ h := h
  respond _ _ _ _ hl h := causeInv_of_none (h.none (by rintro e; simp [e] at hl)) (by simp)
  quit _ hi h := causeInv_of_none (h.none (by simp [hi])) (by simp)

/-- IDLE is entered by a response or by attach, each with its status (R31, R167). -/
theorem lastStInv_closed : ControlClosed LastStInv where
  sees hr _ _ hl h := by unfold LastStInv; rwa [hr, hl]
  raise _ _ _ _ := by simp [LastStInv]
  newSession _ := by simp [LastStInv]
  startSession _ := fun _ => .inl rfl
  busy _ _ _ := by simp [LastStInv]
  pos _ _ _ _ h := h
  respond _ _ _ hst _ _ := fun _ => hst
  quit _ _ _ := by simp [LastStInv]

/-- Settles O58: both are properties of the control registers that each of their updates keeps. -/
theorem everyStepKeepsCauseAndLastStatusLegal : Obligations.EveryStepKeepsCauseAndLastStatusLegal :=
  ⟨fun _ _ h e => causeInv_closed.step h e, fun _ _ h e => lastStInv_closed.step h e⟩

end Sys2Proof.Safety
end

section
/-! PROOFS. Mirror coherence (rule R28) with atomic setters: what an instruction keeps at the grain of SEQ's atomic
actions and of the points between them, where `Closed` has the finer grain of single updates; and that no action, however
it ends, leaves a mirror and its port apart in a live session. -/

namespace Sys2Proof.Safety

open Sys2Proof.Machine

/-! A property kept by whole atomic actions. -/

/-- A property that each point of interleaving, each atomic action, and each bookkeeping of a command keeps. -/
structure ActionClosed (P : State → Prop) : Prop where
  interleave : ∀ s, P s → P (interleave s)
  perform : ∀ a s, P s → P (Action.perform a s)
  pos : ∀ pc s, P s → P (s.setSeqPc pc)
  busy : ∀ s, s.run = .idle → P s → P (s.setRun .busy)
  respond : ∀ st v s, s.run = .idle ∨ s.run = .busy → P s → P (respond st v s)
  setStatus : ∀ v s, P s → P (s.setStatus v)
  setIMode : ∀ m s, P s → P { s with imode := m }
  quit : ∀ s, P s → P { s with run := .terminated, loop := .exitedSuccess }
  relDrain : ∀ s, P s → P (relDrain s)
  setRelPending : ∀ n s, P s → P (s.setRelPending n)

variable {P : State → Prop}

theorem ActionClosed.foldl_seqStep (K : ActionClosed P) (ms : List Micro) {s : State} (h : P s) :
    P (ms.foldl seqStep s) := by
  induction ms generalizing s with
  | nil => exact h
  | cons m ms ih =>
    refine ih (whileBusy_keeps (fun _ h => ?_) h)
    exact whileBusy_keeps (fun _ h => K.perform _ _ h) (K.interleave _ (K.pos _ _ h))

theorem ActionClosed.command (K : ActionClosed P) (ms : List Micro) (val : State → Byte) {s : State}
    (hi : s.run = .idle) (h : P s) : P (command ms val s) := by
  refine whileBusy_keeps (fun hb h => K.respond _ _ _ (.inr hb) h) ?_
  exact whileBusy_keeps (fun _ h => K.interleave _ h) (K.foldl_seqStep ms (K.busy _ hi h))

theorem ActionClosed.setModeCommand (K : ActionClosed P) (m : Byte) {s : State} (hi : s.run = .idle) (h : P s) :
    P (setModeCommand m s) := by
  unfold Machine.setModeCommand
  split
  · exact K.command _ _ hi h
  · exact K.respond _ _ _ (.inl hi) h

theorem ActionClosed.loadProgram (K : ActionClosed P) (img : ImageId) {s : State} (hi : s.run = .idle) (h : P s) :
    P (loadProgramCommand img s) :=
  K.command _ _ hi h

theorem ActionClosed.loadMonitor (K : ActionClosed P) {s : State} (hi : s.run = .idle) (h : P s) :
    P (loadMonitorCommand s) :=
  K.command _ _ hi h

theorem ActionClosed.runMonitor (K : ActionClosed P) {s : State} (hi : s.run = .idle) (h : P s) :
    P (runMonitorCommand s) :=
  K.command _ _ hi h

theorem ActionClosed.goingOn (K : ActionClosed P) {f : State → State} (hf : ∀ t, t.run = .idle → P t → P (f t))
    {s : State} (h : P s) : P (goingOn f s) :=
  goingOn_keeps (fun _ h => K.interleave _ h) hf h

theorem ActionClosed.asking (K : ActionClosed P) {val : State → Byte} {k : Byte → State → State}
    (hk : ∀ v t, t.run = .idle → P t → P (k v t)) {s : State} (hi : s.run = .idle) (h : P s) :
    P (asking (getterCommand val) k s) :=
  K.goingOn (fun t ht h => hk t.answer t ht h) (K.command [] val hi h)

theorem ActionClosed.renderStatus (K : ActionClosed P) {s : State} (h : P s) : P (renderStatus s) :=
  K.goingOn (fun _ hi h => K.asking (fun _ _ hi h => K.asking (fun _ _ hi h => K.asking (fun _ _ _ h =>
    K.setStatus _ _ h) hi h) hi h) hi h) h

/-- A key's own effect is followed by the status. -/
theorem ActionClosed.symbol (K : ActionClosed P) {k : State → State} {s t : State} (h : P s)
    (hk : s.run = .idle → P (k s)) (e : symbol k s = .next t) : P t :=
  keeps_of_whenIdle (k := fun s => Machine.renderStatus (k s)) h (fun hi => K.renderStatus (hk hi)) e

theorem ActionClosed.hexKey (K : ActionClosed P) (n : BitVec 4) {s t : State} (h : P s) (e : hexKey n s = .next t) :
    P t :=
  K.symbol h (fun hi => K.asking (fun _ _ hi h => K.command _ _ hi h) hi h) e

theorem ActionClosed.keyChar (K : ActionClosed P) (c : Byte) {s t : State} (h : P s) (e : execKeyChar c s = .next t) :
    P t :=
  K.symbol (k := fun s => Machine.goingOn (setStbCommand true) (setDataCommand c s)) h (fun hi =>
    K.goingOn (fun _ hi h => K.command _ _ hi h) (K.command [⟨.empty, .setData c⟩] _ hi h)) e

theorem ActionClosed.release (K : ActionClosed P) {s t : State} (h : P s) (e : execRelease s = .next t) : P t := by
  unfold execRelease at e
  split at e
  · obtain rfl : _ = t := by simpa using e
    exact K.relDrain _ (K.setRelPending _ _ h)
  · cases e

/-- Any instruction is a command, a symbol that issues some, quit, toggle or a release. -/
theorem ActionClosed.exec (K : ActionClosed P) {i : Instr} {s t : State} (h : P s) (e : exec i s = .next t) : P t := by
  have get : ∀ val, whenIdle (getterCommand val) s = .next t → P t :=
    fun _ => keeps_of_whenIdle h fun hi => K.command _ _ hi h
  have sym : ∀ k : State → State, (s.run = .idle → P (k s)) → Machine.symbol k s = .next t → P t :=
    fun _ hk => K.symbol h hk
  cases i with
  | getData | getMode | getMp | getEf4 | getStb => exact get _ e
  | setData | setMp | setEf4 | setStb | pulse => exact keeps_of_whenIdle h (fun hi => K.command _ _ hi h) e
  | loadProgram0 | loadProgram1 | loadProgram2 => exact keeps_of_whenIdle h (fun hi => K.loadProgram _ hi h) e
  | loadMonitor => exact keeps_of_whenIdle h (fun hi => K.loadMonitor hi h) e
  | runMonitor => exact keeps_of_whenIdle h (fun hi => K.runMonitor hi h) e
  | setMode m => exact keeps_of_whenIdle h (fun hi => K.setModeCommand m hi h) e
  | reservedCmd w => exact keeps_of_whenIdle h (fun hi => K.respond _ _ _ (.inl hi) h) e
  | quit =>
    replace e : execQuit s = .next t := e
    exact keeps_of_whenIdle h (fun _ => K.quit _ h) e
  | toggle =>
    replace e : execToggle s = .next t := e
    exact K.symbol h (fun _ => K.setIMode _ _ h) e
  | keyZ => exact sym _ (fun hi => K.loadMonitor hi h) e
  | keyM => exact sym _ (fun hi => K.runMonitor hi h) e
  | keyIrqI | keyIrqNewline | keyIrqSpace => exact sym _ (fun hi => K.command _ _ hi h) e
  | keyHex0 | keyHex1 | keyHex2 | keyHex3 | keyHex4 | keyHex5 | keyHex6 | keyHex7
  | keyHex8 | keyHex9 | keyHexA | keyHexB | keyHexC | keyHexD | keyHexE | keyHexF => exact K.hexKey _ h e
  | keyP => exact sym _ (fun hi => K.asking (fun _ _ hi h => K.command _ _ hi h) hi h) e
  | keyL | keyR | keyG | keyW => exact sym _ (fun hi => K.setModeCommand _ hi h) e
  | keyNop | keyboardNop => exact sym _ (fun _ => h) e
  | keyChar c => exact K.keyChar c h e
  | release => exact K.release h e

/-! Coherence. -/

/-- Mirror coherence of a machine whose setters are atomic: the two go together through every update. -/
def AtomicMirrorInv (s : State) : Prop := s.cfg.rmwAtomic = true ∧ MirrorInv s

/-- Out of a live session nothing is asked of the mirrors. -/
theorem mirrorInv_of_notLive {s : State} (h1 : s.run ≠ .idle) (h2 : s.run ≠ .busy) : MirrorInv s :=
  fun h => (h.elim h1 h2).elim

theorem AtomicMirrorInv.raise {c : Cause} {s : State} (h : s.cfg.rmwAtomic = true) : AtomicMirrorInv (raise c s) :=
  ⟨h, mirrorInv_of_notLive (by simp) (by simp)⟩

theorem AtomicMirrorInv.newSession {s : State} (h : s.cfg.rmwAtomic = true) : AtomicMirrorInv (newSession s) :=
  ⟨h, mirrorInv_of_notLive (by simp) (by simp)⟩

/-- A setter writes one byte to port B and to its mirror; a failed write ends the session (R80, R165). -/
theorem atomicMirrorInv_kept : Kept AtomicMirrorInv fun _ _ => True where
  read _ _ _ _ h := h
  readFail _ _ _ h := .raise h.1
  setter _ _ _ _ _ _ h := ⟨h.1, fun hl => ⟨(h.2 hl).1, rfl⟩⟩
  setterFail _ _ _ _ h := .raise h.1
  rel _ _ h := h
  relPending _ _ h := h
  sched _ _ h := h

theorem AtomicMirrorInv.relSteps {s : State} (n : Nat) (h : AtomicMirrorInv s) : AtomicMirrorInv (relSteps n s) :=
  atomicMirrorInv_kept.relSteps (fun _ => trivial) n h.1 h

theorem AtomicMirrorInv.interleave {s : State} (h : AtomicMirrorInv s) : AtomicMirrorInv (interleave s) :=
  atomicMirrorInv_kept.interleave (fun _ => trivial) (fun _ h => .newSession h.1) h.1 h

/-- The full-byte write and its mirror (R82). -/
theorem AtomicMirrorInv.writeData {s : State} (b : Byte) (h : AtomicMirrorInv s) : AtomicMirrorInv (writeData b s) := by
  unfold Machine.writeData
  obtain ⟨-, e⟩ | ⟨left, -, e⟩ := memWrite_cases .seq .portA b (State.setData b) s
  · rw [e]; exact ⟨h.1, fun hl => ⟨rfl, (h.2 hl).2⟩⟩
  · rw [e]; exact .raise h.1

theorem AtomicMirrorInv.openImage {s : State} (k : ImageId) (h : AtomicMirrorInv s) :
    AtomicMirrorInv (openImage k s) := by
  unfold Machine.openImage
  split
  · exact h
  · exact .raise h.1

theorem AtomicMirrorInv.nextImageByte {s : State} (k : ImageId) (x : Option Byte) (h : AtomicMirrorInv s) :
    AtomicMirrorInv (nextImageByte k x s) := by
  unfold Machine.nextImageByte
  split
  · exact .raise h.1
  · cases x <;> exact h

theorem AtomicMirrorInv.perform {s : State} (a : Action) (h : AtomicMirrorInv s) :
    AtomicMirrorInv (a.perform s) := by
  cases a with
  | setField mask bits =>
    have he : Machine.setField mask bits s = setFieldAtomic .seq mask bits s := if_pos h.1
    rw [Action.perform, he]
    exact atomicMirrorInv_kept.setFieldAtomic .seq trivial h
  | setData b => exact h.writeData b
  | holdBegin => exact h
  | holdEnd => exact h
  | imgOpen k => exact h.openImage k
  | imgNext k x => exact h.nextImageByte k x

theorem atomicMirrorInv_closed : ActionClosed AtomicMirrorInv where
  interleave _ h := h.interleave
  perform a _ h := h.perform a
  pos _ _ h := h
  busy _ hi h := ⟨h.1, fun _ => h.2 (.inl hi)⟩
  respond _ _ _ hl h := ⟨h.1, fun _ => h.2 hl⟩
  setStatus _ _ h := h
  setIMode _ _ h := h
  quit _ h := ⟨h.1, mirrorInv_of_notLive (by simp) (by simp)⟩
  relDrain _ h := h.relSteps _
  setRelPending _ _ h := h

/-- Attach starts a session with each mirror the byte its port holds (R38, R191). -/
theorem mirrorInv_attach (s : State) : MirrorInv (attach s) := by
  obtain ⟨v, f, t, w, g, u, e, ha, hb⟩ | hr | hr := attach_cases s
  · rw [e]
    have hA : u.periph.portA = v := (hb.other .portA (by decide) (by decide)).trans ha.value
    exact fun _ => ⟨hb.data.trans hA.symm, hb.value.symm⟩
  · exact mirrorInv_of_notLive (by simp [hr]) (by simp [hr])
  · exact mirrorInv_of_notLive (by simp [hr]) (by simp [hr])

theorem step_keeps_atomicMirrorInv {s t : State} (h : AtomicMirrorInv s) (e : step s = .next t) :
    AtomicMirrorInv t := by
  refine step_keeps ?instruction ?inputs ?drain ?deliver ?restart ?attach h e
  case instruction => exact fun _ _ h e => atomicMirrorInv_closed.exec h e
  case inputs => exact fun _ h => h
  case drain => exact fun h => h.relSteps _
  case deliver => exact fun a n _ h => atomicMirrorInv_kept.deliver (fun _ => trivial) a n h.1 h
  case restart => exact fun a n _ h => .newSession (atomicMirrorInv_kept.deliver (fun _ => trivial) a n h.1 h).1
  case attach => exact fun _ h => ⟨(Extends.refl s).attach.cfg ▸ h.1, mirrorInv_attach s⟩

/-- Settles O55: every part of a step keeps coherence together with the atomicity it rests on. -/
theorem everyStepKeepsMirrorCoherence : Obligations.EveryStepKeepsMirrorCoherence :=
  fun _ _ hc h e => (step_keeps_atomicMirrorInv ⟨hc, h⟩ e).2

/-- Settles O56: each action with the point before it keeps coherence. -/
theorem mirrorIsCoherentAtEveryAction : Obligations.MirrorIsCoherentAtEveryAction :=
  fun ms _ hc h hl => (atomicMirrorInv_closed.foldl_seqStep ms ⟨hc, fun _ => h⟩).2 hl

end Sys2Proof.Safety
end

section
/-! PROOFS. The reset state (rules R193, R198), what is taken outside a live session (rules R29, R146, R169), and the frame
of the operations on port B (rules R28, R80). -/

namespace Sys2Proof.Safety

open Sys2Proof.Machine

/-- Settles O53: each value is read off the reset state. -/
theorem resetStateIsTheColdOutcome : Obligations.ResetStateIsTheColdOutcome := by
  refine ⟨rfl, rfl, rfl, rfl, rfl, rfl, rfl, rfl, rfl, rfl, rfl, rfl, rfl, rfl, rfl, rfl, rfl,
    ?mirror, ?seqPc, ?cause, ?output, ?lastSt⟩
  case mirror => exact fun _ => ⟨rfl, rfl⟩
  case seqPc => exact seqPcInv_closed.startSession State.reset
  case cause => exact causeInv_closed.startSession State.reset
  case output => exact fun _ => ⟨rfl, rfl⟩
  case lastSt => exact lastStInv_closed.startSession State.reset

/-! Inputs outside a live session. -/

/-- Every command and symbol is taken in IDLE alone. -/
theorem exec_eq_whenIdle {i : Instr} (hi : i ≠ .release) : ∃ k, ∀ s, exec i s = whenIdle k s := by
  cases i with
  | release => exact absurd rfl hi
  | _ => exact ⟨_, fun _ => rfl⟩

/-- An event is handled in IDLE and BUSY alone. -/
theorem execRelease_notLive {s : State} (h1 : s.run ≠ .idle) (h2 : s.run ≠ .busy) :
    exec .release s = .fault (.eventNotHandled s.run) :=
  if_neg (not_or.2 ⟨h1, h2⟩)

/-- Settles O9: every instruction but RELEASE goes through `whenIdle`. -/
theorem nothingIsTakenOutsideALiveSession : Obligations.NothingIsTakenOutsideALiveSession := by
  refine ⟨fun i s hi h1 h2 => ?_, fun i s hi hb => ?_, fun s => execRelease_notLive⟩
  · obtain ⟨k, e⟩ := exec_eq_whenIdle hi
    rw [e, whenIdle_notLive h1 h2]
  · obtain ⟨k, e⟩ := exec_eq_whenIdle hi
    rw [e, whenIdle_busy hb]

theorem step_ended {s : State} (h : s.run = .faulted ∨ s.run = .terminated) :
    step s = restartOnly (if s.run = .faulted then .sessionFaulted else .sessionTerminated) s := by
  obtain h | h := h <;> simp [step, h]

theorem restartOnly_restart {s : State} {a n : Nat} {rest : List Input} (h : s.inputs = .restart a n :: rest)
    (stop : Fault) : restartOnly stop s = .next (restart a n { s with inputs := rest }) := by
  simp [restartOnly, h]

theorem restartOnly_stop {s : State} (h : ∀ a n rest, s.inputs ≠ .restart a n :: rest) (stop : Fault) :
    restartOnly stop s = .fault stop := by
  unfold restartOnly
  split
  · exact absurd ‹_› (h _ _ _)
  · rfl

/-- Settles O10: of an ended session a restart is a new session alone, since REL takes no step in it. -/
theorem endedSessionTakesOnlyARestart : Obligations.EndedSessionTakesOnlyARestart := by
  refine fun s h => ⟨fun a n rest hin => ?_, fun hin => ?_⟩
  · have h1 : s.run ≠ .idle := by rintro e; simp [e] at h
    have h2 : s.run ≠ .busy := by rintro e; simp [e] at h
    refine ⟨newSession { s with inputs := rest }, ?_, rfl, rfl, rfl, rfl, rfl, rfl, rfl, rfl, rfl⟩
    rw [step_ended h, restartOnly_restart hin, restart_notLive a n (s := { s with inputs := rest }) h1 h2]
  · rw [step_ended h, restartOnly_stop hin]

/-! The frame of the port-B operations. -/

/-- `t` has the mirror of port A and the registers of the peripheral but port B of `s`. -/
def SameButPortB (s t : State) : Prop :=
  t.data = s.data ∧ t.periph.portA = s.periph.portA ∧ t.periph.dirA = s.periph.dirA ∧ t.periph.dirB = s.periph.dirB

/-- With no kill to come, no update of a port-B operation leaves the frame: only a new session would change `data`. -/
theorem sameButPortB_closed (s : State) : Closed fun t => SameButPortB s t ∧ NoKill t.env where
  popPio _ h := h
  log _ _ h := h
  setPortB _ _ h := h
  setCtl _ _ h := h
  setRel _ _ h := h
  setRelPending _ _ h := h
  raise _ _ _ h := h
  popSched sl rest t hs h := ⟨h.1, fun x hx => h.2 x (hs ▸ List.mem_cons_of_mem sl hx)⟩
  kill sl rest t _ hs hk h _ _ := absurd hk (by simp [h.2 sl (by simp [hs])])
  busy _ _ h := h
  pos _ _ _ _ h := h
  respond _ _ _ _ _ h := h
  setStatus _ _ h := h

/-- Settles O20, by a frame that every update of these operations keeps. -/
theorem portBOperationsLeavePortA : Obligations.PortBOperationsLeavePortA := by
  intro i s t hi hk e
  have K := sameButPortB_closed s
  have h : SameButPortB s s ∧ NoKill s.env := ⟨⟨rfl, rfl, rfl, rfl⟩, hk⟩
  have hi : i = .quit ∨ i = .toggle ∨ onPortBOnly i = true := by cases i <;> simp_all [onPortBOnly]
  obtain rfl | rfl | hB := hi
  · replace e : execQuit s = .next t := e
    exact (keeps_of_whenIdle (P := fun t => SameButPortB s t ∧ NoKill t.env) h (fun _ => h) e).1
  · replace e : execToggle s = .next t := e
    exact (K.symbol h (fun _ => h) e).1
  · exact (K.exec hB h e).1

end Sys2Proof.Safety
end

section
/-! PROOFS. REL works off what is pending: one event is two writes of port B, in two atomic steps or in six, and as many
events follow one another as are pending (rules R35, R57, R146). -/

namespace Sys2Proof.Safety

open Sys2Proof.Machine

theorem relSteps_add (m n : Nat) (s : State) : relSteps (m + n) s = relSteps n (relSteps m s) := by
  induction m generalizing s with
  | zero => rw [Nat.zero_add, relSteps]
  | succ m ih => rw [Nat.add_right_comm, relSteps, relSteps, ih]

theorem relStep_at {s : State} (hi : s.run = .idle) (p : RelPos) :
    relStep (s.setRel (some p)) = relAct p (s.setRel (some p)) := by
  simp [relStep, hi]

@[simp] theorem setRel_setRel (p q : Option RelPos) (s : State) : (s.setRel p).setRel q = s.setRel q := rfl

/-- Where REL stands after its setter of a line. -/
def relAfter : Line → Option RelPos
  | .ef4 => some ⟨.stb, .start⟩
  | .stb => none

theorem relNext_idle {s : State} (hi : s.run = .idle) (l : Line) (p : Option RelPos) :
    relNext l (s.setRel p) = s.setRel (relAfter l) := by
  cases l <;> simp [relNext, hi, relAfter]

/-- Line `l` deasserted by REL from the mirror, when the write does not fail. -/
def lineDone (l : Line) (s : State) : State :=
  { s with
    ctl := s.ctl ||| l.mask
    periph := { s.periph with portB := s.ctl ||| l.mask }
    trace := s.trace ++ [.write .rel .portB (s.ctl ||| l.mask)]
    env := { s.env with pio := s.env.pio.tail } }

@[simp] theorem lineDone_run (l : Line) (s : State) : (lineDone l s).run = s.run := rfl
@[simp] theorem lineDone_cfg (l : Line) (s : State) : (lineDone l s).cfg = s.cfg := rfl
@[simp] theorem lineDone_ctl (l : Line) (s : State) : (lineDone l s).ctl = s.ctl ||| l.mask := rfl
@[simp] theorem lineDone_portB (l : Line) (s : State) : (lineDone l s).periph.portB = s.ctl ||| l.mask := rfl
@[simp] theorem lineDone_trace (l : Line) (s : State) :
    (lineDone l s).trace = s.trace ++ [.write .rel .portB (s.ctl ||| l.mask)] := rfl

theorem lineDone_reliable (l : Line) {s : State} (h : Reliable s.env) : Reliable (lineDone l s).env :=
  ⟨fun r hr => h.1 r (List.mem_of_mem_tail hr), h.2⟩

/-- Where REL stands is no part of what a setter of it reads. -/
theorem lineDone_setRel (l : Line) (p : Option RelPos) (s : State) :
    lineDone l (s.setRel p) = (lineDone l s).setRel p := rfl

/-- IDLE, with the mirror source, and no access fails. -/
structure RelCalm (s : State) : Prop where
  idle : s.run = .idle
  mirror : s.cfg.rmwSource = .mirror
  reliable : Reliable s.env

theorem RelCalm.lineDone {s : State} (h : RelCalm s) (l : Line) : RelCalm (lineDone l s) :=
  ⟨h.idle, h.mirror, lineDone_reliable l h.reliable⟩

theorem RelCalm.setRel {s : State} (h : RelCalm s) (p : Option RelPos) : RelCalm (s.setRel p) :=
  ⟨h.idle, h.mirror, h.reliable⟩

theorem setFieldAtomic_line {s : State} (h : RelCalm s) (l : Line) :
    setFieldAtomic .rel l.mask l.mask s = lineDone l s := by
  simp only [setFieldAtomic, readOld, h.mirror, memWrite, pioReply_reliable h.reliable, masked_line]
  rfl

/-- An atomic setter is one step. -/
theorem relStep_setter {s : State} (h : RelCalm s) (hc : s.cfg.rmwAtomic = true) (l : Line) :
    relStep (s.setRel (some ⟨l, .start⟩)) = (lineDone l s).setRel (relAfter l) := by
  rw [relStep_at h.idle, relAct, if_pos (show (s.setRel (some ⟨l, .start⟩)).cfg.rmwAtomic = true from hc),
    setFieldAtomic_line (h.setRel _), lineDone_setRel]
  exact relNext_idle (s := lineDone l s) h.idle l _

/-! The three steps of a split setter (R57): the old byte, the write, the mirror. -/

theorem relStep_start {s : State} (h : RelCalm s) (hc : s.cfg.rmwAtomic = false) (l : Line) :
    relStep (s.setRel (some ⟨l, .start⟩)) = s.setRel (some ⟨l, .haveOld s.ctl⟩) := by
  rw [relStep_at h.idle]
  simp [relAct, hc, readOld, h.mirror]

theorem relStep_haveOld {s : State} (h : RelCalm s) (hc : s.cfg.rmwAtomic = false) (l : Line) :
    relStep (s.setRel (some ⟨l, .haveOld s.ctl⟩)) =
      ((lineDone l s).setCtl s.ctl).setRel (some ⟨l, .written (s.ctl ||| l.mask)⟩) := by
  have hp : (s.setRel (some ⟨l, .haveOld s.ctl⟩)).pioReply = .ok := pioReply_reliable (h.setRel _).reliable
  rw [relStep_at h.idle]
  simp only [relAct, State.setRel_cfg, hc, Bool.false_eq_true, if_false, memWrite, hp, masked_line]
  rfl

theorem relStep_written {s : State} (hi : s.run = .idle) (hc : s.cfg.rmwAtomic = false) (l : Line) (new : Byte) :
    relStep (s.setRel (some ⟨l, .written new⟩)) = (s.setCtl new).setRel (relAfter l) := by
  rw [relStep_at hi]
  simp only [relAct, State.setRel_cfg, hc, Bool.false_eq_true, if_false]
  exact relNext_idle (s := s.setCtl new) hi l _

theorem relSteps_splitSetter {s : State} (h : RelCalm s) (hc : s.cfg.rmwAtomic = false) (l : Line) :
    relSteps 3 (s.setRel (some ⟨l, .start⟩)) = (lineDone l s).setRel (relAfter l) := by
  rw [relSteps, relStep_start h hc, relSteps, relStep_haveOld h hc, relSteps,
    relStep_written (s := (lineDone l s).setCtl s.ctl) h.idle hc, relSteps]
  rfl

/-- A setter of REL is at least one step and at most three. -/
theorem relSteps_setter {s : State} (h : RelCalm s) (l : Line) :
    ∃ k ≤ 2, relSteps (k + 1) (s.setRel (some ⟨l, .start⟩)) = (lineDone l s).setRel (relAfter l) := by
  cases hc : s.cfg.rmwAtomic with
  | true => exact ⟨0, by omega, relStep_setter h hc l⟩
  | false => exact ⟨2, by omega, relSteps_splitSetter h hc l⟩

/-! Whole events. -/

/-- One event handled, `n` still pending. -/
def eventDone (n : Nat) (s : State) : State := (lineDone .stb (lineDone .ef4 (s.setRelPending n))).setRel none

theorem RelCalm.eventDone {s : State} (h : RelCalm s) (n : Nat) : RelCalm (eventDone n s) :=
  have h' : RelCalm (s.setRelPending n) := ⟨h.idle, h.mirror, h.reliable⟩
  ((h'.lineDone .ef4).lineDone .stb).setRel none

/-- The two lines deasserted, one after the other. -/
theorem or_lines (c : Byte) : c ||| Line.ef4.mask ||| Line.stb.mask = c ||| 0x06#8 := BitVec.or_assoc ..

theorem or_lines_twice (c : Byte) : c ||| 0x06#8 ||| 0x06#8 = c ||| 0x06#8 := by rw [BitVec.or_assoc, BitVec.or_self]

theorem eventDone_ctl (n : Nat) (s : State) : (eventDone n s).ctl = s.ctl ||| 0x06#8 := by
  simp [eventDone, or_lines]

theorem eventDone_portB (n : Nat) (s : State) : (eventDone n s).periph.portB = s.ctl ||| 0x06#8 := by
  simp [eventDone, or_lines]

theorem eventDone_trace (n : Nat) (s : State) : (eventDone n s).trace = s.trace ++
    [.write .rel .portB (s.ctl ||| Line.ef4.mask), .write .rel .portB (s.ctl ||| 0x06#8)] := by
  simp [eventDone, or_lines]

/-- REL begins an event with the setter of `ef4_n`. -/
theorem relStep_begins {n : Nat} {s : State} (hi : s.run = .idle) (hr : s.rel = none) (hn : s.relPending = n + 1) :
    relStep s = relStep ((s.setRelPending n).setRel (some ⟨.ef4, .start⟩)) := by
  rw [relStep_at (s := s.setRelPending n) hi]
  simp [relStep, hi, hr, hn]

/-- An event is at most six steps, after which REL is between two events again. -/
theorem relSteps_event {n : Nat} {s : State} (h : RelCalm s) (hr : s.rel = none) (hn : s.relPending = n + 1) :
    ∃ k ≤ 6, relSteps k s = eventDone n s := by
  have h' : RelCalm (s.setRelPending n) := ⟨h.idle, h.mirror, h.reliable⟩
  obtain ⟨k, hk, e1⟩ := relSteps_setter h' .ef4
  obtain ⟨m, hm, e2⟩ := relSteps_setter (h'.lineDone .ef4) .stb
  refine ⟨(k + 1) + (m + 1), by omega, ?_⟩
  calc relSteps ((k + 1) + (m + 1)) s
      = relSteps (m + 1) (relSteps (k + 1) s) := relSteps_add ..
    _ = relSteps (m + 1) (relSteps (k + 1) ((s.setRelPending n).setRel (some ⟨.ef4, .start⟩))) :=
        congrArg (fun t => relSteps (m + 1) (relSteps k t)) (relStep_begins h.idle hr hn)
    _ = relSteps (m + 1) ((lineDone .ef4 (s.setRelPending n)).setRel (some ⟨.stb, .start⟩)) := by rw [e1, relAfter]
    _ = eventDone n s := e2

/-- `t` is what `n` events handled by REL leave of `s`: both lines deasserted if there was one, two writes each. -/
structure EventsHandled (n : Nat) (s t : State) : Prop where
  run : t.run = .idle
  pending : t.relPending = 0
  rel : t.rel = none
  ctl : t.ctl = if n = 0 then s.ctl else s.ctl ||| 0x06#8
  portB : t.periph.portB = if n = 0 then s.periph.portB else s.ctl ||| 0x06#8
  trace : ∃ es, t.trace = s.trace ++ es ∧ es.length = 2 * n ∧ ∀ x ∈ es, ∃ v, x = .write .rel .portB v

/-- One more event before the others. -/
theorem EventsHandled.cons {n : Nat} {s t : State} (h : EventsHandled n (eventDone n s) t) :
    EventsHandled (n + 1) s t := by
  obtain ⟨es, ht, hl, hw⟩ := h.trace
  rw [eventDone_trace, List.append_assoc] at ht
  refine ⟨h.run, h.pending, h.rel, ?ctl, ?portB, _, ht, ?length, ?writes⟩
  case ctl => rw [h.ctl, eventDone_ctl, or_lines_twice, ite_self, if_neg n.succ_ne_zero]
  case portB => rw [h.portB, eventDone_ctl, eventDone_portB, or_lines_twice, ite_self, if_neg n.succ_ne_zero]
  case length => simp [hl]; omega
  case writes =>
    intro x hx
    obtain rfl | rfl | hx := by simpa using hx
    · exact ⟨_, rfl⟩
    · exact ⟨_, rfl⟩
    · exact hw x hx

/-- Six steps an event handle everything pending; the steps left over do nothing. -/
theorem relSteps_events (n : Nat) {s : State} (h : RelCalm s) (hr : s.rel = none) (hn : s.relPending = n) {fuel : Nat}
    (hf : 6 * n ≤ fuel) : EventsHandled n s (relSteps fuel s) := by
  induction n generalizing s fuel with
  | zero =>
    rw [relSteps_nothing fuel hn hr]
    exact ⟨h.idle, hn, hr, rfl, rfl, [], by simp, rfl, by simp⟩
  | succ n ih =>
    obtain ⟨k, hk, e⟩ := relSteps_event h hr hn
    obtain ⟨m, rfl⟩ : ∃ m, fuel = k + m := ⟨fuel - k, by omega⟩
    rw [relSteps_add, e]
    exact (ih (h.eventDone n) rfl rfl (by omega)).cons

/-- Settles O39: the drain has six steps for each event pending and six to spare. -/
theorem everyPendingReleaseIsHandledOnce : Obligations.EveryPendingReleaseIsHandledOnce := by
  intro s hi hm hr hrel
  have h := relSteps_events (s := s.setRelPending (s.relPending + 1)) (s.relPending + 1) ⟨hi, hm, hr⟩ hrel rfl
    (fuel := 6 * (s.relPending + 1 + 1)) (by omega)
  obtain ⟨es, ht, hl, hw⟩ := h.trace
  refine ⟨_, es, if_pos (.inl hi), h.run, h.pending, h.rel, ?_, ?_, ht, hl, hw⟩
  · exact h.ctl.trans (if_neg (Nat.succ_ne_zero _))
  · exact h.portB.trans (if_neg (Nat.succ_ne_zero _))

end Sys2Proof.Safety
end

section
/-! PROOFS. A setter in three parts can undo a release (rules R57, R205). -/

namespace Sys2Proof.Safety

open Sys2Proof.Machine

/-- RUN with `ef4_n` asserted, setters split, a release to come inside the next one: REL deasserts `ef4_n` between the
setter's read and its write, and comes to `stb_n` after the command's last part. -/
def lostReleaseStart : State :=
  { State.reset with
    ctl := 0x1A#8
    periph := ⟨Config.dirAllOutput, Config.dirAllOutput, Config.defData, 0x1A#8⟩
    cfg := ⟨.mirror, false⟩
    env := ⟨[], [], [⟨false, 0, 0⟩, ⟨false, 1, 3⟩, ⟨false, 0, 0⟩, ⟨false, 0, 3⟩]⟩ }

/-- Settles O43, by that run: the setter writes the mode on the byte it read before REL's write. -/
theorem splitSettersCanLoseAnUpdate : Obligations.SplitSettersCanLoseAnUpdate :=
  ⟨lostReleaseStart, setModeCommand 0x10#8 lostReleaseStart, rfl, rfl, by simp [Reliable, lostReleaseStart],
    by simp [NoKill, lostReleaseStart], rfl, ⟨rfl, rfl⟩, rfl, rfl, rfl, rfl, rfl, rfl⟩

end Sys2Proof.Safety
end

section
/-! PROOFS. With atomic setters no update of port B is lost (rules R57, R146, R172): REL inside a command is a list of
lines, each deasserted on the byte found there, and a setter of SEQ stands between two such lists. -/

namespace Sys2Proof.Safety

open Sys2Proof.Machine

/-! Lines deasserted one after another. -/

theorem deassert_eq (c : Byte) (l : Line) : deassert c l = c ||| l.mask := by cases l <;> rfl

/-- Deasserting lines leaves every bit they do not hold. -/
theorem foldl_deassert_and {k : Byte} (ls : List Line) (h : ∀ l ∈ ls, l.mask &&& k = 0#8) (c : Byte) :
    ls.foldl deassert c &&& k = c &&& k := by
  induction ls generalizing c with
  | nil => rfl
  | cons l ls ih =>
    rw [List.foldl_cons, ih (fun l hl => h l (List.mem_cons_of_mem _ hl)), deassert_eq,
      BitVec.and_or_distrib_right, h l List.mem_cons_self, BitVec.or_zero]

/-- The lines are the only bits REL changes. -/
theorem foldl_deassert_and_F9 (ls : List Line) (c : Byte) : ls.foldl deassert c &&& 0xF9#8 = c &&& 0xF9#8 :=
  foldl_deassert_and ls (fun l _ => by cases l <;> rfl) c

/-- A list of lines is one mask. -/
theorem foldl_deassert_or (ls : List Line) (c d : Byte) :
    ls.foldl deassert (c ||| d) = c ||| ls.foldl deassert d := by
  induction ls generalizing d with
  | nil => rfl
  | cons l ls ih => rw [List.foldl_cons, List.foldl_cons, deassert_eq, deassert_eq, BitVec.or_assoc, ih]

theorem foldl_deassert_eq (ls : List Line) (c : Byte) : ls.foldl deassert c = c ||| ls.foldl deassert 0#8 := by
  rw [← foldl_deassert_or, BitVec.or_zero]

/-- Bits that are set stay set under an or. -/
theorem or_and_of_and {c m : Byte} (h : c &&& m = m) (d : Byte) : (c ||| d) &&& m = m := by
  have absorb : m ||| d &&& m = m := by
    ext i
    simp
  rw [BitVec.and_or_distrib_right, h, absorb]

theorem foldl_deassert_and_mask {l : Line} {ls : List Line} (h : l ∈ ls) (c : Byte) :
    ls.foldl deassert c &&& l.mask = l.mask := by
  obtain ⟨as, bs, rfl⟩ := List.append_of_mem h
  rw [List.foldl_append, List.foldl_cons, deassert_eq, BitVec.or_comm, foldl_deassert_or]
  exact or_and_of_and BitVec.and_self _

/-- A setter leaves the bits of other fields to REL: there they are as if REL alone had stepped. -/
theorem foldl_deassert_setter {set : Byte → Byte} {mask : Byte} (hs : ∀ c, set c &&& mask = c &&& mask)
    (as bs : List Line) (c : Byte) :
    bs.foldl deassert (set (as.foldl deassert c)) &&& mask = (as ++ bs).foldl deassert c &&& mask := by
  rw [List.foldl_append, foldl_deassert_eq bs (set _), foldl_deassert_eq bs (as.foldl _ _),
    BitVec.and_or_distrib_right, hs, ← BitVec.and_or_distrib_right]

/-! The order of REL's lines. -/

theorem length_relLines (l : Line) (n : Nat) : (relLines l n).length = n := by
  induction n generalizing l with
  | zero => cases l <;> rfl
  | succ n ih => cases l <;> simp [relLines, ih]

/-- Two steps of REL come to both lines. -/
theorem mem_relLines {l k : Line} {n : Nat} (h : 2 ≤ n) : k ∈ relLines l n := by
  obtain ⟨m, rfl⟩ := Nat.exists_eq_add_of_le' h
  cases l <;> cases k <;> simp [relLines]

theorem mem_relLines_self {l : Line} {n : Nat} (h : 1 ≤ n) : l ∈ relLines l n := by
  obtain ⟨m, rfl⟩ := Nat.exists_eq_add_of_le' h
  cases l <;> simp [relLines]

/-! One step of REL inside a command. -/

/-- Inside a command, under the decided parameters, with no failure and no kill to come. -/
structure BusyCalm (s : State) : Prop where
  busy : s.run = .busy
  decided : s.cfg = Params.decided
  reliable : Reliable s.env
  noKill : NoKill s.env

/-- Port B and its mirror written by one agent. -/
def fieldWritten (ag : Agent) (v : Byte) (s : State) : State :=
  { s with
    ctl := v
    periph := { s.periph with portB := v }
    trace := s.trace ++ [.write ag .portB v]
    env := { s.env with pio := s.env.pio.tail } }

theorem BusyCalm.fieldWritten {s : State} (h : BusyCalm s) (ag : Agent) (v : Byte) : BusyCalm (fieldWritten ag v s) :=
  ⟨h.busy, h.decided, ⟨fun r hr => h.reliable.1 r (List.mem_of_mem_tail hr), h.reliable.2⟩, h.noKill⟩

theorem setFieldAtomic_busyCalm {s : State} (h : BusyCalm s) (ag : Agent) (mask bits : Byte) :
    setFieldAtomic ag mask bits s = fieldWritten ag (maskedByte s.ctl mask bits) s := by
  simp only [setFieldAtomic, readOld, h.decided, Params.decided, memWrite, pioReply_reliable h.reliable]
  rfl

theorem lineDone_eq_fieldWritten (l : Line) (s : State) : lineDone l s = fieldWritten .rel (s.ctl ||| l.mask) s := rfl

theorem BusyCalm.setRel {s : State} (h : BusyCalm s) (p : Option RelPos) : BusyCalm (s.setRel p) :=
  ⟨h.busy, h.decided, h.reliable, h.noKill⟩

theorem BusyCalm.setRelPending {s : State} (h : BusyCalm s) (n : Nat) : BusyCalm (s.setRelPending n) :=
  ⟨h.busy, h.decided, h.reliable, h.noKill⟩

theorem relAct_busyCalm {s : State} (h : BusyCalm s) (p : RelPos) :
    relAct p s = (lineDone p.line s).setRel (relAfter p.line) := by
  rw [relAct, if_pos (by rw [h.decided]; rfl), setFieldAtomic_busyCalm h, masked_line, ← lineDone_eq_fieldWritten]
  cases hl : p.line <;> simp [relNext, h.busy, relAfter]

/-! REL's work by where it stands. -/

theorem relWork_none {s : State} (h : s.rel = none) : relWork s = 2 * s.relPending := by simp [relWork, h]

theorem relWork_ef4 {s : State} {g : SetterStage} (h : s.rel = some ⟨.ef4, g⟩) :
    relWork s = 2 * s.relPending + 2 := by simp [relWork, h]

theorem relWork_stb {s : State} {g : SetterStage} (h : s.rel = some ⟨.stb, g⟩) :
    relWork s = 2 * s.relPending + 1 := by simp [relWork, h]

theorem nothing_of_relWork_zero {s : State} (h : relWork s = 0) : s.relPending = 0 ∧ s.rel = none := by
  match hr : s.rel with
  | none => rw [relWork_none hr] at h; exact ⟨by omega, rfl⟩
  | some ⟨.ef4, _⟩ => rw [relWork_ef4 hr] at h; omega
  | some ⟨.stb, _⟩ => rw [relWork_stb hr] at h; omega

/-- With work to do, REL deasserts its next line and has one step less to do. -/
theorem relStep_busyCalm {s : State} (h : BusyCalm s) (hw : relWork s ≠ 0) :
    ∃ n, relStep s = (lineDone (relLine s) (s.setRelPending n)).setRel (relAfter (relLine s)) ∧
      relWork (relStep s) + 1 = relWork s := by
  have live : s.run = .idle ∨ s.run = .busy := .inr h.busy
  cases hr : s.rel with
  | some p =>
    have e : relStep s = (lineDone p.line s).setRel (relAfter p.line) := by
      rw [← relAct_busyCalm h]; simp [relStep, live, hr]
    refine ⟨s.relPending, by rw [relLine, hr]; exact e, ?_⟩
    obtain ⟨l, stage⟩ := p
    rw [e]
    cases l <;> simp [relWork, relAfter, hr, lineDone]
  | none =>
    cases hp : s.relPending with
    | zero => simp [relWork, hr, hp] at hw
    | succ n =>
      have e : relStep s = (lineDone .ef4 (s.setRelPending n)).setRel (relAfter .ef4) := by
        have := relAct_busyCalm ((h.setRelPending n).setRel (some ⟨.ef4, .start⟩)) ⟨.ef4, .start⟩
        rw [lineDone_setRel, setRel_setRel] at this
        rw [← this]; simp [relStep, live, hr, hp]
      refine ⟨n, by simpa only [relLine, hr] using e, ?_⟩
      rw [e]
      simp [relWork, relAfter, hr, hp, lineDone]
      omega

/-- `t` is what REL leaves of `s` after it has deasserted the lines `ls` in turn; `next`: these are the first lines of
REL's order at `s`, which goes on as at `t`. -/
structure RelTook (ls : List Line) (s t : State) : Prop where
  calm : BusyCalm t
  sched : t.env.sched = s.env.sched
  ctl : t.ctl = ls.foldl deassert s.ctl
  portB : s.periph.portB = s.ctl → t.periph.portB = t.ctl
  trace : t.trace = s.trace ++ relWrites s.ctl ls
  work : relWork t + ls.length = relWork s
  next : ∀ m, relLines (relLine s) (ls.length + m) = ls ++ relLines (relLine t) m

theorem RelTook.nil {s : State} (h : BusyCalm s) : RelTook [] s s :=
  ⟨h, rfl, rfl, id, (List.append_nil _).symm, rfl, fun m => by rw [List.length_nil, Nat.zero_add]; rfl⟩

theorem RelTook.cons {l : Line} {ls : List Line} {s t u : State} (h : RelTook [l] s t) (h' : RelTook ls t u) :
    RelTook (l :: ls) s u where
  calm := h'.calm
  sched := h'.sched.trans h.sched
  ctl := by rw [h'.ctl, h.ctl]; rfl
  portB hp := h'.portB (h.portB hp)
  trace := by rw [h'.trace, h.trace, h.ctl, List.append_assoc]; rfl
  work := by
    have w := h.work
    have w' := h'.work
    simp only [List.length_cons, List.length_nil] at w ⊢
    omega
  next m := by
    have e := h.next (ls.length + m)
    rw [h'.next] at e
    rw [List.length_cons, Nat.add_right_comm, Nat.add_comm _ 1]
    exact e

theorem relStep_took {s : State} (h : BusyCalm s) (hw : relWork s ≠ 0) : RelTook [relLine s] s (relStep s) := by
  obtain ⟨n, e, work⟩ := relStep_busyCalm h hw
  refine ⟨?calm, ?sched, ?ctl, ?portB, ?trace, work, ?next⟩
  case calm => exact e ▸ ((h.setRelPending n).fieldWritten _ _).setRel _
  case sched => rw [e]; rfl
  case ctl => rw [e]; exact (deassert_eq ..).symm
  case portB => intro _; rw [e]; rfl
  case trace => rw [e, relWrites, deassert_eq]; rfl
  case next =>
    intro m
    rw [e, List.length_singleton, Nat.add_comm 1]
    cases relLine s <;> rfl

/-- REL takes as many steps as it may and has to do. -/
theorem relSteps_took (n : Nat) {s : State} (h : BusyCalm s) :
    RelTook (relLines (relLine s) (min n (relWork s))) s (relSteps n s) := by
  induction n generalizing s with
  | zero => rw [Nat.zero_min]; cases relLine s <;> exact .nil h
  | succ n ih =>
    by_cases hw : relWork s = 0
    · obtain ⟨hp, hr⟩ := nothing_of_relWork_zero hw
      rw [hw, Nat.min_zero, relSteps_nothing _ hp hr]
      cases relLine s <;> exact .nil h
    · have one := relStep_took h hw
      have rest := one.cons (ih one.calm)
      have hm : min (n + 1) (relWork s) = 1 + min n (relWork (relStep s)) := by
        have := one.work
        simp only [List.length_singleton] at this
        omega
      have e := one.next (min n (relWork (relStep s)))
      rw [List.length_singleton, ← hm] at e
      rw [e]
      exact rest

/-! A point of the command. -/

/-- The `n`th slot to come; past the end of the schedule nothing happens. -/
def slotAt (s : State) (n : Nat) : Slot := s.env.sched[n]?.getD ⟨false, 0, 0⟩

/-- The next slot is used up and its release events are delivered. -/
def arrived (s : State) : State :=
  (s.setSched s.env.sched.tail).setRelPending (s.relPending + (slotAt s 0).arrivals)

theorem relWork_arrived (s : State) : relWork (arrived s) = relWork s + 2 * (slotAt s 0).arrivals := by
  simp only [relWork, arrived, State.setRelPending_relPending, State.setRelPending_rel, State.setSched_rel]
  omega

theorem BusyCalm.arrived {s : State} (h : BusyCalm s) : BusyCalm (arrived s) :=
  ⟨h.busy, h.decided, h.reliable, fun x hx => h.noKill x (List.mem_of_mem_tail hx)⟩

/-- Past the end of the schedule nothing arrives. -/
theorem arrived_nil {s : State} (h : s.env.sched = []) : arrived s = s := by
  have hs : s.env.sched.tail = s.env.sched := by simp [h]
  have ha : (slotAt s 0).arrivals = 0 := by simp [slotAt, h]
  rw [arrived, hs, ha]
  rfl

/-- With no kill to come a point is a delivery, past the end of the schedule too. -/
theorem interleave_noKill {s : State} (h : NoKill s.env) :
    interleave s = relSteps (slotAt s 0).relSteps (arrived s) := by
  cases hs : s.env.sched with
  | nil => simp [arrived_nil hs, interleave, hs, slotAt, relSteps]
  | cons sl rest => simp [interleave, hs, slotAt, arrived, deliver, h sl (by simp [hs])]

/-- How many steps REL takes at the next point. -/
def pointSteps (s : State) : Nat := min (slotAt s 0).relSteps (relWork s + 2 * (slotAt s 0).arrivals)

theorem interleave_took {s : State} (h : BusyCalm s) :
    RelTook (relLines (relLine s) (pointSteps s)) (arrived s) (interleave s) := by
  rw [interleave_noKill h.noKill, pointSteps, ← relWork_arrived]
  exact relSteps_took _ h.arrived

/-! A setter between two points. -/

/-- How many steps REL takes at the first point of a setter. -/
def firstSteps (s : State) : Nat := pointSteps s

/-- How many it takes at the second, with what the first has left it. -/
def secondSteps (s : State) : Nat :=
  min (slotAt s 1).relSteps (relWork s + 2 * (slotAt s 0).arrivals - firstSteps s + 2 * (slotAt s 1).arrivals)

/-- The lines REL writes at the first point. -/
def firstLines (s : State) : List Line := (relLines (relLine s) (firstSteps s + secondSteps s)).take (firstSteps s)

/-- The lines REL writes at the second. -/
def secondLines (s : State) : List Line := (relLines (relLine s) (firstSteps s + secondSteps s)).drop (firstSteps s)

theorem firstLines_append_secondLines (s : State) :
    firstLines s ++ secondLines s = relLines (relLine s) (firstSteps s + secondSteps s) := List.take_append_drop ..

/-- The release events delivered at the two points. -/
def arrivalsInside (s : State) : Nat := ((s.env.sched.take 2).map Slot.arrivals).sum

theorem arrivalsInside_eq (s : State) : arrivalsInside s = (slotAt s 0).arrivals + (slotAt s 1).arrivals := by
  unfold arrivalsInside slotAt
  match s.env.sched with
  | [] => rfl
  | [a] => simp
  | a :: b :: _ => simp

/-- The release events not finished. -/
def unfinished (s : State) : Nat := s.relPending + (if s.rel = none then 0 else 1)

theorem unfinished_eq (s : State) : unfinished s = (relWork s + 1) / 2 := by
  unfold unfinished
  match hr : s.rel with
  | none => rw [relWork_none hr, if_pos rfl]; omega
  | some ⟨.ef4, _⟩ => rw [relWork_ef4 hr, if_neg (Option.some_ne_none _)]; omega
  | some ⟨.stb, _⟩ => rw [relWork_stb hr, if_neg (Option.some_ne_none _)]; omega

/-- `t` is `s` after a setter that writes `set c` on finding `c`, with REL's steps at its two points. -/
structure SetterRun (set : Byte → Byte) (s t : State) : Prop where
  run : t.run = .idle
  resp : t.resp = some ⟨0, 0x00#8⟩
  sched : t.env.sched = s.env.sched.drop 2
  ctl : t.ctl = (secondLines s).foldl deassert (set ((firstLines s).foldl deassert s.ctl))
  portB : t.periph.portB = t.ctl
  trace : t.trace = s.trace ++ (relWrites s.ctl (firstLines s) ++
    wB (set ((firstLines s).foldl deassert s.ctl)) ::
      relWrites (set ((firstLines s).foldl deassert s.ctl)) (secondLines s) ++ [.resp ⟨0, 0x00#8⟩])
  work : relWork t + (firstSteps s + secondSteps s) = relWork s + 2 * arrivalsInside s

/-- A setter accepted. -/
def accepted (s : State) : State := (s.setRun .busy).setSeqPc .empty

/-- A setter's run: a point, the write on the byte found there, a point, and the response. -/
theorem setterCommand_points {s : State} (h : BusyCalm (accepted s)) (mask bits : Byte) :
    ∃ u v, RelTook (relLines (relLine s) (firstSteps s)) (arrived (accepted s)) u ∧
      RelTook (relLines (relLine u) (pointSteps u)) (arrived (fieldWritten .seq (maskedByte u.ctl mask bits) u)) v ∧
      setterCommand mask bits s = respond stOk 0x00#8 v := by
  have first := interleave_took h
  have second := interleave_took (first.calm.fieldWritten .seq (maskedByte (interleave (accepted s)).ctl mask bits))
  refine ⟨_, _, first, second, ?_⟩
  have perform : (Action.setField mask bits).perform (interleave (accepted s)) =
      fieldWritten .seq (maskedByte (interleave (accepted s)).ctl mask bits) (interleave (accepted s)) := by
    rw [Action.perform, setField, if_pos (by rw [first.calm.decided]; rfl), setFieldAtomic_busyCalm first.calm]
  rw [setterCommand, command, seqRun, List.foldl_cons, List.foldl_nil,
    seqStep_go (s := s.setRun .busy) rfl (t := interleave (accepted s)) rfl first.calm.busy, perform,
    whileBusy_busy (first.calm.fieldWritten ..).busy, whileBusy_busy second.calm.busy]
  rfl

theorem setterCommand_run {s : State} (hd : s.cfg = Params.decided) (hr : Reliable s.env) (hk : NoKill s.env)
    {mask bits : Byte} {set : Byte → Byte} (hset : ∀ c, maskedByte c mask bits = set c) :
    SetterRun set s (setterCommand mask bits s) := by
  obtain ⟨u, v, first, second, e⟩ := setterCommand_points (s := s) ⟨rfl, hd, hr, hk⟩ mask bits
  have workU : relWork u + firstSteps s = relWork s + 2 * (slotAt s 0).arrivals := by
    rw [← length_relLines (relLine s) (firstSteps s)]
    exact first.work.trans (relWork_arrived _)
  have slotU : slotAt u 0 = slotAt s 1 := by
    rw [slotAt, first.sched]
    exact congrArg (·.getD ⟨false, 0, 0⟩) (List.getElem?_tail (l := s.env.sched))
  have steps : pointSteps u = secondSteps s := by
    rw [pointSteps, secondSteps, slotU, ← workU, Nat.add_sub_cancel]
  have workV := second.work.trans (relWork_arrived _)
  have lines := first.next (secondSteps s)
  rw [length_relLines] at lines workV
  rw [steps] at second workV
  have firstEq : relLines (relLine s) (firstSteps s) = firstLines s := by
    rw [firstLines]; exact lines ▸ (List.take_left' (length_relLines ..)).symm
  have secondEq : relLines (relLine u) (secondSteps s) = secondLines s := by
    rw [secondLines]; exact lines ▸ (List.drop_left' (length_relLines ..)).symm
  rw [firstEq] at first
  rw [secondEq, hset, first.ctl] at second
  rw [e]
  refine ⟨rfl, rfl, ?sched, second.ctl, second.portB rfl, ?trace, ?work⟩
  case sched =>
    calc v.env.sched = u.env.sched.tail := second.sched
      _ = s.env.sched.tail.tail := congrArg List.tail first.sched
      _ = s.env.sched.drop 2 := by rw [← List.drop_one, ← List.drop_one, List.drop_drop]
  case trace =>
    have hu : u.trace = s.trace ++ relWrites s.ctl (firstLines s) := first.trace
    have hv : v.trace = u.trace ++ [wB (set ((firstLines s).foldl deassert s.ctl))] ++
        relWrites (set ((firstLines s).foldl deassert s.ctl)) (secondLines s) := second.trace
    change v.trace ++ [.resp ⟨0, 0x00#8⟩] = _
    rw [hv, hu]
    simp
  case work =>
    have hv : relWork v + secondSteps s = relWork u + 2 * (slotAt u 0).arrivals := workV
    change relWork v + _ = _
    rw [slotU] at hv
    rw [arrivalsInside_eq]
    omega

/-! What the run keeps. -/

section
variable {set : Byte → Byte} {s t : State} {mask : Byte} (h : SetterRun set s t)
include h

/-- The bits the setter leaves are those REL's lines, all together, leave of the byte at the start. -/
theorem SetterRun.ctl_and (hs : ∀ c, set c &&& mask = c &&& mask) :
    t.ctl &&& mask = (relLines (relLine s) (firstSteps s + secondSteps s)).foldl deassert s.ctl &&& mask := by
  rw [h.ctl, foldl_deassert_setter hs, firstLines_append_secondLines]

/-- A bit set before, in a field the setter leaves, is set after. -/
theorem SetterRun.or_and (hs : ∀ c, set c &&& mask = c &&& mask) : (s.ctl ||| t.ctl) &&& mask = t.ctl &&& mask := by
  rw [BitVec.and_or_distrib_right, h.ctl_and hs, foldl_deassert_eq, ← BitVec.and_or_distrib_right, ← BitVec.or_assoc,
    BitVec.or_self]

/-- A line REL has written, and the setter has not, is deasserted. -/
theorem SetterRun.line (hs : ∀ c, set c &&& mask = c &&& mask) {l : Line}
    (hl : l ∈ relLines (relLine s) (firstSteps s + secondSteps s)) :
    t.ctl &&& (mask &&& l.mask) = mask &&& l.mask := by
  rw [← BitVec.and_assoc, h.ctl_and hs, BitVec.and_assoc, BitVec.and_comm mask, ← BitVec.and_assoc,
    foldl_deassert_and_mask hl]

/-- An event finished that the command found not begun, or at its first line, has taken two steps inside it. -/
theorem SetterRun.two_steps (hl : unfinished t < s.relPending + arrivalsInside s +
    (if s.rel.map RelPos.line = some .ef4 then 1 else 0)) : 2 ≤ firstSteps s + secondSteps s := by
  have hw := h.work
  rw [unfinished_eq] at hl
  match hr : s.rel with
  | none => rw [relWork_none hr] at hw; simp [hr] at hl; omega
  | some ⟨.ef4, _⟩ => rw [relWork_ef4 hr] at hw; simp [hr] at hl; omega
  | some ⟨.stb, _⟩ => rw [relWork_stb hr] at hw; simp [hr] at hl; omega

/-- An event finished has taken its last step, which writes `stb_n`, inside the command. -/
theorem SetterRun.stb_mem (hl : unfinished t < s.relPending + arrivalsInside s + (if s.rel = none then 0 else 1)) :
    .stb ∈ relLines (relLine s) (firstSteps s + secondSteps s) := by
  have hw := h.work
  rw [unfinished_eq] at hl
  match hr : s.rel with
  | none => rw [relWork_none hr] at hw; simp [hr] at hl; exact mem_relLines (by omega)
  | some ⟨.ef4, _⟩ => rw [relWork_ef4 hr] at hw; simp [hr] at hl; exact mem_relLines (by omega)
  | some ⟨.stb, _⟩ =>
    rw [relWork_stb hr] at hw
    simp [hr] at hl
    rw [relLine, hr]
    exact mem_relLines_self (by omega)

/-- Two steps of REL deassert both lines, but for the one the setter writes. -/
theorem SetterRun.lines (hs : ∀ c, set c &&& mask = c &&& mask) (hm : mask &&& 0x06#8 = mask)
    (h2 : 2 ≤ firstSteps s + secondSteps s) : t.ctl &&& mask = mask := by
  have he := h.line hs (l := .ef4) (mem_relLines h2)
  have hb := h.line hs (l := .stb) (mem_relLines h2)
  calc t.ctl &&& mask = t.ctl &&& (mask &&& Line.ef4.mask ||| mask &&& Line.stb.mask) := by
        rw [← BitVec.and_or_distrib_left]; exact congrArg _ hm.symm
    _ = mask &&& Line.ef4.mask ||| mask &&& Line.stb.mask := by rw [BitVec.and_or_distrib_left, he, hb]
    _ = mask := by rw [← BitVec.and_or_distrib_left]; exact hm

/-- A line the setter deasserts is deasserted at the end: REL deasserts only. -/
theorem SetterRun.deasserted {l : Line} (hs : ∀ c, set c &&& l.mask = l.mask) : t.ctl &&& l.mask = l.mask := by
  rw [h.ctl, foldl_deassert_eq]
  exact or_and_of_and (hs _) _

/-- A line the setter asserts is asserted at the end, unless REL has written it since. -/
theorem SetterRun.asserted {l : Line} (hs : ∀ c, set c &&& l.mask = 0#8) (hl : l ∉ secondLines s) :
    t.ctl &&& l.mask = 0#8 := by
  have other (k : Line) (hk : k ∈ secondLines s) : k.mask &&& l.mask = 0#8 := by
    have ne : k ≠ l := fun e => hl (e ▸ hk)
    revert ne
    cases k <;> cases l <;> decide
  rw [h.ctl, foldl_deassert_and _ other, hs]

/-- Outside the lines the setter alone writes. -/
theorem SetterRun.ctl_and_F9 {f : Byte → Byte} (hf : ∀ c, set c &&& 0xF9#8 = f (c &&& 0xF9#8)) :
    t.ctl &&& 0xF9#8 = f (s.ctl &&& 0xF9#8) := by
  rw [h.ctl, foldl_deassert_and_F9, hf, foldl_deassert_and_F9]

end

theorem decEf4_eq : ∀ c : Byte, decEf4 c = decide (c &&& Line.ef4.mask = 0#8) := by decide

theorem decStb_eq : ∀ c : Byte, decStb c = decide (c &&& Line.stb.mask = 0#8) := by decide

/-- SET_MODE of a mode code writes that code in the mode field alone. -/
theorem setMode_bits : ∀ m ∈ [0x00#8, 0x08#8, 0x10#8, 0x18#8], isModeCode m = true ∧
    ∀ c : Byte, ((c &&& 0xE7#8) ||| m) &&& 0x06#8 = c &&& 0x06#8 ∧
      ((c &&& 0xE7#8) ||| m) &&& 0xF9#8 = (c &&& 0xF9#8 &&& 0xE1#8) ||| m := by decide

/-- Settles O42: each setter's run is REL's first lines, its own write, and REL's other lines. -/
theorem atomicSettersLoseNoUpdate : Obligations.AtomicSettersLoseNoUpdate := by
  intro s hi hd hr hk slot n1 n2 first second events left good
  have run {mask bits : Byte} {set : Byte → Byte} (hset : ∀ c, maskedByte c mask bits = set c) :
      SetterRun set s (setterCommand mask bits s) := setterCommand_run hd hr hk hset
  have isGood {set : Byte → Byte} {mask : Byte} {t : State} (h : SetterRun set s t)
      (hs : ∀ c, set c &&& mask = c &&& mask) (hm : mask &&& 0x06#8 = mask) : good set mask t :=
    ⟨h.run, h.resp, h.sched, ⟨h.ctl, h.portB, h.trace⟩, h.or_and hs, fun hl => h.lines hs hm (h.two_steps hl),
      fun hl => h.line hs (h.stb_mem hl)⟩
  refine ⟨fun m hm => ?mode, fun v => ?mp, fun v => ?ef4, fun v => ?stb⟩
  case mode =>
    obtain ⟨code, bits⟩ := setMode_bits m hm
    have h := run (masked_mode · m)
    refine ⟨_, (whenIdle_idle hi (setModeCommand m)).trans (congrArg _ (if_pos code)),
      isGood h (fun c => (bits c).1) rfl, ?_⟩
    rw [h.ctl_and_F9 (f := fun c => (c &&& 0xE1#8) ||| m) fun c => (bits c).2, BitVec.and_assoc]
    rfl
  case mp =>
    have h : SetterRun _ s (setMpCommand v s) := run (masked_mp · v)
    refine ⟨_, whenIdle_idle hi (setMpCommand v), isGood h (by cases v <;> decide) rfl, ?_⟩
    rw [h.ctl_and_F9 (f := fun c => (c &&& 0xF8#8) ||| if v then 0x01#8 else 0x00#8) (by cases v <;> decide),
      BitVec.and_assoc]
    rfl
  case ef4 =>
    have h : SetterRun _ s (setEf4Command v s) := run (masked_ef4 · v)
    refine ⟨_, whenIdle_idle hi (setEf4Command v), isGood h (by cases v <;> decide) rfl,
      h.ctl_and_F9 (f := id) (by cases v <;> decide), ?_, ?_⟩
    · rintro rfl
      rw [decEf4_eq, h.deasserted (l := .ef4) (by decide)]
      rfl
    · rintro rfl hl
      rw [decEf4_eq, h.asserted (by decide) hl]
      rfl
  case stb =>
    have h : SetterRun _ s (setStbCommand v s) := run (masked_stb · v)
    refine ⟨_, whenIdle_idle hi (setStbCommand v), isGood h (by cases v <;> decide) rfl,
      h.ctl_and_F9 (f := id) (by cases v <;> decide), ?_, ?_⟩
    · rintro rfl
      rw [decStb_eq, h.deasserted (l := .stb) (by decide)]
      rfl
    · rintro rfl hl
      rw [decStb_eq, h.asserted (by decide) hl]
      rfl

end Sys2Proof.Safety
end

section
/-! PROOFS. The fields of the port-B byte (rules R61, R64, R101 to R105) and the step's decoding of the next input word
(rules R65, R130). -/

namespace Sys2Proof.Safety

open Sys2Proof.Machine

/-! The port-B byte. -/

/-- The four mode codes are all the values of bits 4:3 in place (R63, R101). -/
theorem and_maskMode_cases : ∀ b : Byte,
    b &&& Config.maskMode = Config.mLoad ∨ b &&& Config.maskMode = Config.mPause ∨
    b &&& Config.maskMode = Config.mReset ∨ b &&& Config.maskMode = Config.mRun := by decide

/-- A mode's code is the mode bits of each of its bytes (R101, R102). -/
theorem modeOf_code (b : Byte) : (modeOf b).code = b &&& Config.maskMode := by
  obtain h | h | h | h := and_maskMode_cases b <;> rw [modeOf, h] <;> rfl

theorem modeOf_modeCode (m : Mode) : modeOf m.code = m := by cases m <;> rfl

theorem toNat_decHi (b : Byte) : (decHi b).toNat = b.toNat / 32 := by
  have := b.isLt
  simp only [decHi, BitVec.extractLsb'_toNat, Nat.shiftRight_eq_div_pow]
  omega

/-- The five fields are all eight bits of the byte (R61, R64). -/
theorem encCtl_dec : ∀ b : Byte, encCtl (decHi b) (decMode b) (decEf4 b) (decStb b) (decMp b) = b := by decide

/-- Settles O6: the fields are read off their definitions, and the codes and modes by the four values of bits 4:3. -/
theorem portBByteDecodesAndEncodes : Obligations.PortBByteDecodesAndEncodes :=
  ⟨fun b => ⟨rfl, rfl, rfl, rfl, toNat_decHi b, encCtl_dec b⟩, modeOf_code, modeOf_modeCode,
    rfl, rfl, rfl, rfl, rfl, rfl, rfl, rfl⟩

/-! The step. -/

theorem step_idle {s : State} (h : s.run = .idle) : step s = takeInput s := by rw [step, h]

theorem takeInput_offer {s : State} {o : Offer} {rest : List Input} (h : s.inputs = .offer o :: rest) :
    takeInput s = exec (decode s.imode o) { s with inputs := rest } := by rw [takeInput, h]

/-- Settles O7: in IDLE the step takes the next input, and an offered word is decoded and executed. -/
theorem stepRunsTheDecodedInstruction : Obligations.StepRunsTheDecodedInstruction := by
  intro s o rest i hr hin hd
  rw [step_idle hr, takeInput_offer hin, hd]

end Sys2Proof.Safety
end

section
/-! PROOFS. Command words (rules R65, R66, R73): their fields, which of them are reserved, and that a reserved one is
refused. -/

namespace Sys2Proof.Safety

open Sys2Proof.Machine

/-! The fields of a command word (R65). -/

theorem toNat_cmdOp (w : CmdWord) : (cmdOp w).toNat = w.toNat / 4096 := by
  have := w.isLt
  simp only [cmdOp, BitVec.extractLsb'_toNat, Nat.shiftRight_eq_div_pow]
  omega

theorem toNat_cmdZ (w : CmdWord) : (cmdZ w).toNat = w.toNat / 256 % 16 := by
  simp [cmdZ, Nat.shiftRight_eq_div_pow]

theorem toNat_cmdArg (w : CmdWord) : (cmdArg w).toNat = w.toNat % 256 := by simp [cmdArg]

theorem toNat_cmdWord (op : BitVec 4) (arg : Byte) : (cmdWord op arg).toNat = op.toNat * 4096 + arg.toNat :=
  calc (cmdWord op arg).toNat
    _ = (op ++ 0#4).toNat <<< 8 ||| arg.toNat := BitVec.toNat_append ..
    _ = (op ++ 0#4).toNat <<< 8 + arg.toNat := (Nat.shiftLeft_add_eq_or_of_lt arg.isLt _).symm
    _ = op.toNat * 4096 + arg.toNat := by
      rw [BitVec.toNat_append]
      simp only [BitVec.toNat_ofNat, Nat.zero_mod, Nat.or_zero, Nat.shiftLeft_eq]
      omega

theorem cmdArg_cmdWord (op : BitVec 4) (arg : Byte) : cmdArg (cmdWord op arg) = arg := by
  have := arg.isLt
  apply BitVec.eq_of_toNat_eq
  rw [toNat_cmdArg, toNat_cmdWord]
  omega

theorem toNat_cmdWord_div (op : BitVec 4) (arg : Byte) : (cmdWord op arg).toNat / 256 = op.toNat * 16 := by
  have := arg.isLt
  rw [toNat_cmdWord]
  omega

/-! The two rows whose operand is the whole of `arg` (R66, R68). -/

theorem decodeCmd_eq_setData {w : CmdWord} (h : w.toNat / 256 = 0x10) : decodeCmd w = .setData (cmdArg w) := by
  have h0 : w.toNat ≠ 0 := by omega
  rw [decodeCmd_eq, if_neg h0, if_pos h]

theorem decodeCmd_eq_setMode {w : CmdWord} (h : w.toNat / 256 = 0x30) : decodeCmd w = .setMode (cmdArg w) := by
  have h0 : w.toNat ≠ 0 := by omega
  have h1 : w.toNat / 256 ≠ 0x10 := by omega
  have h2 : w.toNat ≠ 0x2000 := by omega
  rw [decodeCmd_eq, if_neg h0, if_neg h1, if_neg h2, if_pos h]

theorem decodeCmd_cmdWord_setData (b : Byte) : decodeCmd (cmdWord 0x1#4 b) = .setData b := by
  rw [decodeCmd_eq_setData (toNat_cmdWord_div 0x1#4 b), cmdArg_cmdWord]

theorem decodeCmd_cmdWord_setMode (m : Byte) : decodeCmd (cmdWord 0x3#4 m) = .setMode m := by
  rw [decodeCmd_eq_setMode (toNat_cmdWord_div 0x3#4 m), cmdArg_cmdWord]

/-! Reserved words (R73). -/

/-- The model's test on the word's value. -/
theorem isReservedCmd_iff (w : CmdWord) : isReservedCmd w = true ↔
    w.toNat / 4096 = 0xE ∨ w.toNat / 4096 = 0xF ∨ w.toNat / 256 % 16 ≠ 0 ∨
    (w.toNat / 4096 ∈ [0x0, 0x2, 0x4, 0x6, 0x8, 0xA, 0xC, 0xD] ∧ w.toNat % 256 ≠ 0) ∨
    (w.toNat / 4096 ∈ [0x5, 0x7, 0x9] ∧ w.toNat % 256 / 2 ≠ 0) ∨
    (w.toNat / 4096 = 0xB ∧ (w.toNat % 256 / 4 ≠ 0 ∨ w.toNat % 256 % 4 = 3)) := by
  have hz : cmdZ w = 0 ↔ w.toNat / 256 % 16 = 0 := by rw [← toNat_cmdZ]; exact BitVec.toNat_eq
  simp only [isReservedCmd, Bool.or_eq_true, Bool.and_eq_true, decide_eq_true_eq, toNat_cmdOp, toNat_cmdArg, ne_eq, hz,
    or_assoc]

/-- The words no row of R66 matches are those R73 lists. -/
theorem decodeCmd_eq_reservedCmd_iff (w : CmdWord) : decodeCmd w = .reservedCmd w ↔ isReservedCmd w = true := by
  have := w.isLt
  rw [isReservedCmd_iff, decodeCmd_eq]
  simp only [ite_eq_iff, reduceCtorEq, and_false, false_or, and_true, List.mem_cons, List.not_mem_nil, or_false]
  omega

/-- A word is reserved or has the instruction of a row. -/
theorem decodeRows_cases (rows : List CmdRow) (w : CmdWord) :
    decodeRows rows w = .reservedCmd w ∨ ∃ r ∈ rows, decodeRows rows w = r.build (cmdArg w) := by
  induction rows with
  | nil => exact .inl rfl
  | cons r rs ih =>
    rw [decodeRows]
    split
    · exact .inr ⟨r, List.mem_cons_self, rfl⟩
    · exact ih.imp_right fun ⟨q, hq, e⟩ => ⟨q, List.mem_cons_of_mem r hq, e⟩

/-- Each row's instruction is well formed, with every argument, and of both interaction modes. -/
theorem cmdTable_wellFormed {r : CmdRow} (h : r ∈ cmdTable) (a : Byte) (m : IMode) :
    (r.build a).wellFormed = true ∧ (r.build a).decodesIn m = true := by
  fin_cases h <;> exact ⟨rfl, rfl⟩

/-- Everything the command decoder answers is well formed and of both interaction modes. -/
theorem decodeCmd_wellFormed (w : CmdWord) (m : IMode) :
    (decodeCmd w).wellFormed = true ∧ (decodeCmd w).decodesIn m = true := by
  obtain h | ⟨r, hr, h⟩ := decodeRows_cases cmdTable w
  · rw [decodeCmd, h]
    exact ⟨(decodeCmd_eq_reservedCmd_iff w).1 h, rfl⟩
  · rw [decodeCmd, h]
    exact cmdTable_wellFormed hr _ m

/-- In IDLE, with `seq_pc` empty, a response changes `last_st`, the response and the record alone. -/
theorem respond_of_idle {s : State} (hr : s.run = .idle) (hp : s.seqPc = .empty) (st : BitVec 4) (v : Byte) :
    respond st v s = { s with lastSt := st, resp := some ⟨st, v⟩, trace := s.trace ++ [.resp ⟨st, v⟩] } := by
  rw [respond, ← hr, ← hp]

theorem exec_reservedCmd {s : State} (hr : s.run = .idle) (w : CmdWord) :
    exec (.reservedCmd w) s = .next (respond stIllegalCommand 0x00#8 s) := whenIdle_idle hr _

/-- Settles O3: the words no row matches are those listed, and `reservedCmd` responds without an action. -/
theorem reservedCommandWordsAreExactlyThoseListed : Obligations.ReservedCommandWordsAreExactlyThoseListed := by
  intro w
  have hres := (decodeCmd_eq_reservedCmd_iff w).trans (isReservedCmd_iff w)
  refine ⟨hres, fun hop hz => ?setMode, fun h s hr hp => ?refused⟩
  case setMode =>
    have h : w.toNat / 256 = 0x30 := by omega
    rw [decodeCmd_eq_setMode h, ← toNat_cmdArg, BitVec.ofNat_toNat, BitVec.setWidth_eq]
  case refused =>
    rw [hres.2 h, exec_reservedCmd hr, respond_of_idle hr hp]
    rfl

end Sys2Proof.Safety
end

section
/-! PROOFS. Key symbols (rules R69 to R71, R131): folding, the order of the tests, the CONTROL table as its rows and the
codes it leaves. -/

namespace Sys2Proof.Safety

open Sys2Proof.Machine

/-! Codes and folding (R69). -/

theorem isUpper_iff (c : Byte) : isUpper c = true ↔ 0x41 ≤ c.toNat ∧ c.toNat ≤ 0x5A := decide_eq_true_iff

theorem isPrintable_iff (c : Byte) : Config.isPrintable c = true ↔ 0x20 ≤ c.toNat ∧ c.toNat ≤ 0x7E := decide_eq_true_iff

theorem isUpper_of_notPrintable {c : Byte} (h : Config.isPrintable c = false) : isUpper c = false := by
  rw [← Bool.not_eq_true, isPrintable_iff] at h
  rw [← Bool.not_eq_true, isUpper_iff]
  omega

theorem foldCode_upper {c : Byte} (h : isUpper c = true) : foldCode c = c + 0x20#8 := if_pos h

theorem foldCode_eq_self {c : Byte} (h : isUpper c = false) : foldCode c = c := by simp [foldCode, h]

/-- No folded code is an upper-case letter. -/
theorem isUpper_foldCode (c : Byte) : isUpper (foldCode c) = false := by
  cases h : isUpper c with
  | false => rwa [foldCode_eq_self h]
  | true =>
    rw [foldCode_upper h, ← Bool.not_eq_true, isUpper_iff, BitVec.toNat_add]
    rw [isUpper_iff] at h
    simp only [BitVec.toNat_ofNat]
    omega

/-! The order of the tests (R70, R71, R130, R131). -/

/-- Folding comes first: a symbol and its folded code are decoded alike, since the folded code is what KEYBOARD sends. -/
theorem decodeKey_foldCode (m : IMode) (c : Byte) : decodeKey m (foldCode c) = decodeKey m c := by
  simp only [decodeKey, foldCode_eq_self (isUpper_foldCode c), Config.foldInKeyboard, if_true]

section
variable {c : Byte} (hu : isUpper c = false) (hq : c ≠ Config.quitCode) (ht : c ≠ Config.toggleCode)
include hu hq ht

theorem decodeKey_control : decodeKey .control c = decodeControl c := by
  simp only [decodeKey, foldCode_eq_self hu, hq, ht, if_false]

theorem decodeKey_keyboard : decodeKey .keyboard c = decodeKeyboard c := by
  simp only [decodeKey, foldCode_eq_self hu, hq, ht, if_false, ite_self]

end

theorem decodeKeyboard_printable {c : Byte} (h : Config.isPrintable c = true) : decodeKeyboard c = .keyChar c := if_pos h

theorem decodeKeyboard_notPrintable {c : Byte} (h : Config.isPrintable c = false) :
    decodeKeyboard c = .keyboardNop c := by simp [decodeKeyboard, h]

/-! The CONTROL table (R70). -/

/-- The codes with an action are quit, toggle and those of the table. -/
theorem namedControlCodes_eq :
    namedControlCodes = Config.quitCode :: Config.toggleCode :: controlTable.map Prod.fst := rfl

/-- Each row's instruction is a well-formed one of CONTROL. -/
theorem controlTable_wellFormed : ∀ p ∈ controlTable, p.2.wellFormed = true ∧ p.2.decodesIn .control = true := by decide

/-- A code has a row's instruction, or no row and the no-op of itself. -/
theorem decodeControl_cases (c : Byte) :
    (c, decodeControl c) ∈ controlTable ∨ c ∉ controlTable.map Prod.fst ∧ decodeControl c = .keyNop c := by
  rw [decodeControl]
  cases h : controlTable.lookup c with
  | none =>
    refine .inr ⟨fun hc => ?_, rfl⟩
    obtain ⟨p, hp, rfl⟩ := List.mem_map.1 hc
    simpa using List.lookup_eq_none_iff.1 h p hp
  | some i =>
    obtain ⟨l, r, e, -⟩ := List.lookup_eq_some_iff.1 h
    refine .inl ?_
    rw [e]
    simp

/-- A code without a row is the no-op of itself. -/
theorem decodeControl_of_not_mem {c : Byte} (h : c ∉ controlTable.map Prod.fst) : decodeControl c = .keyNop c :=
  (decodeControl_cases c).elim (fun hc => absurd (List.mem_map_of_mem (f := Prod.fst) hc) h) And.right

/-! The codes of the three rows that stand for many (R71, R143 to R145). -/

theorem wellFormed_keyNop_iff (c : Byte) : (Instr.keyNop c).wellFormed = true ↔
    isUpper c = false ∧ c ≠ Config.quitCode ∧ c ≠ Config.toggleCode ∧ c ∉ controlTable.map Prod.fst := by
  simp [Instr.wellFormed, namedControlCodes_eq]

theorem wellFormed_keyChar_iff (c : Byte) : (Instr.keyChar c).wellFormed = true ↔
    Config.isPrintable c = true ∧ c ≠ Config.quitCode ∧ isUpper c = false := by
  simp [Instr.wellFormed, Config.foldInKeyboard, and_assoc]

theorem wellFormed_keyboardNop_iff (c : Byte) : (Instr.keyboardNop c).wellFormed = true ↔
    Config.isPrintable c = false ∧ c ≠ Config.toggleCode := by
  simp [Instr.wellFormed]

/-! Decoding the code of each, and back. -/

theorem decodeKey_keyNop {c : Byte} (h : (Instr.keyNop c).wellFormed = true) : decodeKey .control c = .keyNop c := by
  obtain ⟨hu, hq, ht, hc⟩ := (wellFormed_keyNop_iff c).1 h
  rw [decodeKey_control hu hq ht, decodeControl_of_not_mem hc]

theorem decodeKey_keyChar {c : Byte} (h : (Instr.keyChar c).wellFormed = true) : decodeKey .keyboard c = .keyChar c := by
  obtain ⟨hp, hq, hu⟩ := (wellFormed_keyChar_iff c).1 h
  have ht : c ≠ Config.toggleCode := by rintro rfl; exact absurd hp (by decide)
  rw [decodeKey_keyboard hu hq ht, decodeKeyboard_printable hp]

theorem decodeKey_keyboardNop {c : Byte} (h : (Instr.keyboardNop c).wellFormed = true) :
    decodeKey .keyboard c = .keyboardNop c := by
  obtain ⟨hp, ht⟩ := (wellFormed_keyboardNop_iff c).1 h
  have hq : c ≠ Config.quitCode := by rintro rfl; exact absurd hp (by decide)
  rw [decodeKey_keyboard (isUpper_of_notPrintable hp) hq ht, decodeKeyboard_notPrintable hp]

/-- Settles O4: a symbol is decoded as its folded code, and past quit and toggle KEYBOARD asks whether it prints. -/
theorem keySymbolsAreFoldedThenTestedInOrder : Obligations.KeySymbolsAreFoldedThenTestedInOrder := by
  refine ⟨fun m => ⟨rfl, rfl⟩, fun m c h1 h2 => ?folded, fun c h1 h2 hu hq => ?printable, fun c ht h => ?other⟩
  case folded => rw [← foldCode_upper ((isUpper_iff c).2 ⟨h1, h2⟩), decodeKey_foldCode]
  case printable =>
    have hu' : isUpper c = false := by rwa [← Bool.not_eq_true, isUpper_iff]
    exact decodeKey_keyChar ((wellFormed_keyChar_iff c).2 ⟨(isPrintable_iff c).2 ⟨h1, h2⟩, hq, hu'⟩)
  case other =>
    have hp : Config.isPrintable c = false := by rw [← Bool.not_eq_true, isPrintable_iff]; omega
    exact decodeKey_keyboardNop ((wellFormed_keyboardNop_iff c).2 ⟨hp, ht⟩)

/-- Everything a symbol decodes to is well formed and of the interaction mode: one case for each test of the folded
code. -/
theorem decodeKey_wellFormed (m : IMode) (c : Byte) :
    (decodeKey m c).wellFormed = true ∧ (decodeKey m c).decodesIn m = true := by
  have hu := isUpper_foldCode c
  rw [← decodeKey_foldCode]
  generalize foldCode c = f at hu ⊢
  obtain rfl | hq := eq_or_ne f Config.quitCode
  · exact ⟨rfl, rfl⟩
  obtain rfl | ht := eq_or_ne f Config.toggleCode
  · exact ⟨rfl, rfl⟩
  cases m with
  | control =>
    rw [decodeKey_control hu hq ht]
    obtain h | ⟨h, e⟩ := decodeControl_cases f
    · exact controlTable_wellFormed _ h
    · rw [e]
      exact ⟨(wellFormed_keyNop_iff f).2 ⟨hu, hq, ht, h⟩, rfl⟩
  | keyboard =>
    rw [decodeKey_keyboard hu hq ht]
    cases hp : Config.isPrintable f with
    | true =>
      rw [decodeKeyboard_printable hp]
      exact ⟨(wellFormed_keyChar_iff f).2 ⟨hp, hq, hu⟩, rfl⟩
    | false =>
      rw [decodeKeyboard_notPrintable hp]
      exact ⟨(wellFormed_keyboardNop_iff f).2 ⟨hp, ht⟩, rfl⟩

end Sys2Proof.Safety
end

section
/-! PROOFS. The decoder of all three formats and its inverse (rules R66, R70 to R72). -/

namespace Sys2Proof.Safety

open Sys2Proof.Machine

/-- Settles O2: by format, a command by its row and a key by the tests of its folded code. -/
theorem decoderAnswersWellFormedInstructions : Obligations.DecoderAnswersWellFormedInstructions
  | m, .cmd w => decodeCmd_wellFormed w m
  | m, .key c => decodeKey_wellFormed m c
  | _, .evt => ⟨rfl, rfl⟩

/-- Settles O5: each word is decoded by evaluation. -/
theorem writtenOutWordsDecode : Obligations.WrittenOutWordsDecode :=
  ⟨by decide, by decide, by decide, by decide, by decide, by decide, rfl⟩

/-- Settles O1: an instruction without an operand has one word, and each operand has its own lemma. -/
theorem decodeOfEncodeIsTheInstruction : Obligations.DecodeOfEncodeIsTheInstruction := by
  intro i m hw hm
  cases i with
  | setData b => exact decodeCmd_cmdWord_setData b
  | setMode a => exact decodeCmd_cmdWord_setMode a
  | setMp v | setEf4 v | setStb v => cases v <;> rfl
  | reservedCmd w => exact (decodeCmd_eq_reservedCmd_iff w).2 hw
  | keyNop c =>
    obtain rfl : m = .control := eq_of_beq hm
    exact decodeKey_keyNop hw
  | keyChar c =>
    obtain rfl : m = .keyboard := eq_of_beq hm
    exact decodeKey_keyChar hw
  | keyboardNop c =>
    obtain rfl : m = .keyboard := eq_of_beq hm
    exact decodeKey_keyboardNop hw
  | getData | getMode | getMp | getEf4 | getStb | pulse | loadProgram0 | loadProgram1 | loadProgram2 | loadMonitor
  | runMonitor | quit | toggle | release => rfl
  -- The keys of the CONTROL table.
  | _ =>
    obtain rfl : m = .control := eq_of_beq hm
    rfl

end Sys2Proof.Safety
end

section
/-! PROOFS. The masked byte bit by bit (rule R80): what it holds in the field and outside it, and two writes one after
the other. A byte `bits` lies inside the field `mask` when `bits &&& ~~~mask = 0`. -/

namespace Sys2Proof.Safety

open Sys2Proof.Machine

/-- A bit of a masked byte. -/
theorem getLsbD_maskedByte (c mask bits : Byte) {n : Nat} (hn : n < 8) :
    (maskedByte c mask bits).getLsbD n = ((c.getLsbD n && !mask.getLsbD n) || bits.getLsbD n) := by
  simp [maskedByte, hn]

/-- A field written twice is as written once. -/
theorem maskedByte_idem (c mask bits : Byte) :
    maskedByte (maskedByte c mask bits) mask bits = maskedByte c mask bits := by
  refine BitVec.eq_of_getLsbD_eq fun n hn => ?_
  simp only [getLsbD_maskedByte _ _ _ hn]
  grind

/-- A bit written lies in the field. -/
theorem getLsbD_mask_of_inside {mask bits : Byte} (hb : bits &&& ~~~mask = 0x00#8) (n : Nat) :
    bits.getLsbD n = true → mask.getLsbD n = true := by
  intro hn
  have h := congrArg (fun x : Byte => x.getLsbD n) hb
  simpa [hn, BitVec.lt_of_getLsbD hn] using h

/-- Fields that do not meet are written in either order. -/
theorem maskedByte_comm (c : Byte) {mask bits mask' bits' : Byte} (hb : bits &&& ~~~mask = 0x00#8)
    (hb' : bits' &&& ~~~mask' = 0x00#8) (hd : mask &&& mask' = 0x00#8) :
    maskedByte (maskedByte c mask bits) mask' bits' = maskedByte (maskedByte c mask' bits') mask bits := by
  refine BitVec.eq_of_getLsbD_eq fun n hn => ?_
  have b := getLsbD_mask_of_inside hb n
  have b' := getLsbD_mask_of_inside hb' n
  have d : (mask.getLsbD n && mask'.getLsbD n) = false := by rw [← BitVec.getLsbD_and, hd, BitVec.getLsbD_zero]
  simp only [getLsbD_maskedByte _ _ _ hn]
  grind

/-- Outside its field a setter leaves each bit. -/
theorem getLsbD_maskedByte_outside (c : Byte) {mask bits : Byte} (hb : bits &&& ~~~mask = 0x00#8) {n : Nat} (hn : n < 8)
    (hm : mask.getLsbD n = false) : (maskedByte c mask bits).getLsbD n = c.getLsbD n := by
  have b : bits.getLsbD n = false := Bool.eq_false_of_not_eq_true fun h => by simp [getLsbD_mask_of_inside hb n h] at hm
  simp [getLsbD_maskedByte _ _ _ hn, hm, b]

/-- Inside it, the bits are those written. -/
theorem maskedByte_and_mask (c : Byte) {mask bits : Byte} (hb : bits &&& ~~~mask = 0x00#8) :
    maskedByte c mask bits &&& mask = bits := by
  refine BitVec.eq_of_getLsbD_eq fun n hn => ?_
  have b := getLsbD_mask_of_inside hb n
  rw [BitVec.getLsbD_and, getLsbD_maskedByte _ _ _ hn]
  grind

end Sys2Proof.Safety
end

section
/-! PROOFS. The register store in a calm environment (rules R80 to R90): the getters, SET_DATA, and the four setters of
port B, each a `SetField` of its own field. -/

namespace Sys2Proof.Safety

open Sys2Proof.Machine

/-! Getters. -/

/-- Any getter in a calm environment: the environment left does not depend on which one it is. -/
theorem getter_calm {s : State} (hi : s.run = .idle) (hc : Calm s.env) : ∃ e, Calm e ∧
    ∀ val : State → Byte, (∀ t u : State, t.data = u.data → t.ctl = u.ctl → val t = val u) →
      whenIdle (getterCommand val) s = .next (answered s e 0 (val s)) := by
  obtain ⟨e, he, hl⟩ := interleave_calm (s := s.setRun .busy) hc
  refine ⟨e, he, fun val hv => ?_⟩
  have hrun : seqRun [] (s.setRun .busy) = { s.setRun .busy with env := e } := by
    rw [seqRun, List.foldl_nil, whileBusy_busy rfl, hl]
  rw [whenIdle_idle hi, getterCommand, command, hrun, whileBusy_busy rfl,
    hv { s.setRun .busy with env := e } s rfl rfl]
  rfl

/-- Settles O11: the five are getters of the mirror; the value of each is its field's, by definition. -/
theorem gettersAnswerFromTheMirror : Obligations.GettersAnswerFromTheMirror := by
  intro s hi hc
  obtain ⟨e, he, get⟩ := getter_calm hi hc
  have active_low (b : Bool) : boolByte (!b) = if b then 0x00#8 else 0x01#8 := by cases b <;> rfl
  refine ⟨e, he, ?data, ?mode, ?mp, ?ef4, ?stb⟩
  case data => exact get (fun s => s.data) fun _ _ hd _ => hd
  case mode => exact get (fun s => decMode s.ctl) fun _ _ _ hl => congrArg decMode hl
  case mp => exact get (fun s => boolByte (decMp s.ctl)) fun _ _ _ hl => congrArg (boolByte ∘ decMp) hl
  case ef4 =>
    rw [← active_low]
    exact get (fun s => boolByte (decEf4 s.ctl)) fun _ _ _ hl => congrArg (boolByte ∘ decEf4) hl
  case stb =>
    rw [← active_low]
    exact get (fun s => boolByte (decStb s.ctl)) fun _ _ _ hl => congrArg (boolByte ∘ decStb) hl

/-! SET_DATA. -/

/-- A command that returns no value and opens no image, under calm: the bus its actions fold to. -/
theorem command_noValue_calm {s : State} (hr : Ready s) (ms : List Micro)
    (hh : ms.foldl actHandle s.handle = s.handle) :
    ∃ e, Calm e ∧
      whenIdle (command ms noValue) s = .next (answered (withBus s (ms.foldl actBus (busOf s))) e 0 0x00#8) := by
  obtain ⟨e, he, hx⟩ := command_calm hr ms noValue fun _ _ _ _ => rfl
  refine ⟨e, he, ?_⟩
  rw [whenIdle_idle hr.1, hx, hh]
  rfl

/-- Settles O12: one action, which writes port A and then its mirror. -/
theorem setDataWritesPortAWhole : Obligations.SetDataWritesPortAWhole := by
  intro s b hr
  obtain ⟨e, he, hx⟩ := command_noValue_calm hr [⟨.empty, .setData b⟩] rfl
  exact ⟨e, he, hx, fun hdir => if_pos hdir⟩

/-! The four setters of port B. -/

theorem isModeCode_iff (m : Byte) : isModeCode m = true ↔ m ∈ [0x00#8, 0x08#8, 0x10#8, 0x18#8] := by
  simp [isModeCode, Config.mLoad, Config.mPause, Config.mReset, Config.mRun, or_assoc]

/-- Settles O14: the argument is refused before the command is taken. -/
theorem setModeRefusesEveryOtherByte : Obligations.SetModeRefusesEveryOtherByte := by
  intro s m hi hm hp
  have refused : setModeCommand m s = respond stInvalidArgument 0x00#8 s := if_neg (mt (isModeCode_iff m).1 hm)
  have hx : exec (.setMode m) s = .next (setModeCommand m s) := whenIdle_idle hi _
  rw [hx, refused, respond_of_idle hi hp]
  rfl

/-- `i` is the setter that writes `bits` into the field `mask` of port B. -/
structure SetsField (i : Instr) (mask bits : Byte) : Prop where
  exec_eq : ∀ s, exec i s = whenIdle (setterCommand mask bits) s
  inside : bits &&& ~~~mask = 0x00#8

theorem setsField_setMode {m : Byte} (hm : m ∈ [0x00#8, 0x08#8, 0x10#8, 0x18#8]) :
    SetsField (.setMode m) Config.maskMode m where
  exec_eq s := by
    have legal : setModeCommand m = setterCommand Config.maskMode m :=
      funext fun _ => if_pos ((isModeCode_iff m).2 hm)
    rw [← legal]
    rfl
  inside := by revert m; decide

theorem setsField_setMp (v : Bool) : SetsField (.setMp v) Config.maskMp (mpBits v) where
  exec_eq _ := rfl
  inside := by cases v <;> decide

theorem setsField_setEf4 (v : Bool) : SetsField (.setEf4 v) Config.maskEf4 (ef4Bits v) where
  exec_eq _ := rfl
  inside := by cases v <;> decide

theorem setsField_setStb (v : Bool) : SetsField (.setStb v) Config.maskStb (stbBits v) where
  exec_eq _ := rfl
  inside := by cases v <;> decide

/-- A setter under calm: one masked write of port B (R80). -/
theorem SetsField.exec_calm {i : Instr} {s : State} {mask bits : Byte} (h : SetsField i mask bits) (hr : Ready s) :
    ∃ e, Calm e ∧
      exec i s = .next (answered (withBus s ((busOf s).putB (maskedByte s.ctl mask bits))) e 0 0x00#8) := by
  rw [h.exec_eq]
  exact command_noValue_calm hr [⟨.empty, .setField mask bits⟩] rfl

/-- Settles O16: each is a setter, and its masked byte is its rule's. -/
theorem booleanSettersWriteTheirBit : Obligations.BooleanSettersWriteTheirBit := by
  intro s v hr
  have mp := (setsField_setMp v).exec_calm hr
  have ef4 := (setsField_setEf4 v).exec_calm hr
  have stb := (setsField_setStb v).exec_calm hr
  rw [masked_mp] at mp
  rw [masked_ef4] at ef4
  rw [masked_stb] at stb
  exact ⟨mp, ef4, stb⟩

/-! Setters one after another (R91, R92). -/

/-- `t` is left by setters that took port B and its mirror to the byte `c`. -/
structure WrotePortB (c : Byte) (s t : State) : Prop where
  ready : Ready t
  ctl : t.ctl = c
  periph : t.periph = { s.periph with portB := c }

/-- Two instructions in either order complete in `s` and leave the same port B and mirror. -/
def CommuteIn (s : State) (i j : Instr) : Prop :=
  ∃ t u, runAll [i, j] s = some t ∧ runAll [j, i] s = some u ∧ t.ctl = u.ctl ∧ t.periph = u.periph

section
variable {i j : Instr} {s : State} {mask bits mask' bits' : Byte}

theorem SetsField.wrote (h : SetsField i mask bits) (hr : Ready s) :
    ∃ t, exec i s = .next t ∧ WrotePortB (maskedByte s.ctl mask bits) s t := by
  obtain ⟨e, he, hx⟩ := h.exec_calm hr
  exact ⟨_, hx, ⟨rfl, hr.2.1, he⟩, rfl, rfl⟩

theorem SetsField.wrote_one (h : SetsField i mask bits) (hr : Ready s) :
    ∃ t, runAll [i] s = some t ∧ WrotePortB (maskedByte s.ctl mask bits) s t := by
  obtain ⟨t, hx, ht⟩ := h.wrote hr
  exact ⟨t, runAll_cons hx, ht⟩

theorem SetsField.wrote_two (h : SetsField i mask bits) (h' : SetsField j mask' bits') (hr : Ready s) :
    ∃ t, runAll [i, j] s = some t ∧ WrotePortB (maskedByte (maskedByte s.ctl mask bits) mask' bits') s t := by
  obtain ⟨t, hx, ht⟩ := h.wrote hr
  obtain ⟨u, hy, hu⟩ := h'.wrote_one ht.ready
  refine ⟨u, (runAll_cons hx).trans hy, hu.ready, ?_, ?_⟩
  · rw [hu.ctl, ht.ctl]
  · rw [hu.periph, ht.periph, ht.ctl]

theorem CommuteIn.symm (h : CommuteIn s i j) : CommuteIn s j i :=
  let ⟨t, u, ht, hu, hc, hp⟩ := h
  ⟨u, t, hu, ht, hc.symm, hp.symm⟩

theorem SetsField.commute (h : SetsField i mask bits) (h' : SetsField j mask' bits') (hd : mask &&& mask' = 0x00#8)
    (hr : Ready s) : CommuteIn s i j := by
  obtain ⟨t, ht, wt⟩ := h.wrote_two h' hr
  obtain ⟨u, hu, wu⟩ := h'.wrote_two h hr
  have same := maskedByte_comm s.ctl h.inside h'.inside hd
  exact ⟨t, u, ht, hu, by rw [wt.ctl, wu.ctl, same], by rw [wt.periph, wu.periph, same]⟩

theorem SetsField.idem (h : SetsField i mask bits) (hr : Ready s) :
    ∃ t u, runAll [i] s = some t ∧ runAll [i, i] s = some u ∧ t.ctl = u.ctl ∧ t.periph = u.periph := by
  obtain ⟨t, ht, wt⟩ := h.wrote_one hr
  obtain ⟨u, hu, wu⟩ := h.wrote_two h hr
  rw [maskedByte_idem] at wu
  exact ⟨t, u, ht, hu, by rw [wt.ctl, wu.ctl], by rw [wt.periph, wu.periph]⟩

/-- Two setters of one field leave every bit outside it. -/
theorem SetsField.keeps_others (h : SetsField i mask bits) (h' : SetsField j mask bits') (hr : Ready s) :
    (runAll [i, j] s).map (fun t => t.ctl &&& ~~~mask) = some (s.ctl &&& ~~~mask) := by
  obtain ⟨t, ht, wt⟩ := h.wrote_two h' hr
  rw [ht, Option.map_some, wt.ctl, masked_keeps _ _ _ h'.inside, masked_keeps _ _ _ h.inside]

end

/-- Settles O19: the fields of different setters do not meet, and a field written twice is as written once. -/
theorem settersCommuteAndAreIdempotent : Obligations.SettersCommuteAndAreIdempotent := by
  intro s m p e b hr hm
  have mode := setsField_setMode hm
  have mp := setsField_setMp p
  have ef4 := setsField_setEf4 e
  have stb := setsField_setStb b
  have pairs : [Instr.setMode m, .setMp p, .setEf4 e, .setStb b].Pairwise (CommuteIn s) := by
    simp only [List.pairwise_cons, List.forall_mem_cons, List.not_mem_nil, false_implies, implies_true,
      List.Pairwise.nil, and_true]
    exact ⟨⟨mode.commute mp (by decide) hr, mode.commute ef4 (by decide) hr, mode.commute stb (by decide) hr⟩,
      ⟨mp.commute ef4 (by decide) hr, mp.commute stb (by decide) hr⟩, ef4.commute stb (by decide) hr⟩
  have : Std.Symm (CommuteIn s) := ⟨fun _ _ => CommuteIn.symm⟩
  refine ⟨fun _ hi _ hj hne => pairs.forall hi hj hne, ?_⟩
  simp only [List.forall_mem_cons, List.not_mem_nil, false_implies, implies_true, and_true]
  exact ⟨mode.idem hr, mp.idem hr, ef4.idem hr, stb.idem hr⟩

/-- R92 (1): after SET_MODE, GET_MODE answers its argument and the other three getters of port B answer as before. -/
theorem getters_after_setMode {s : State} (hr : Ready s) {m : Byte} (hm : m ∈ [0x00#8, 0x08#8, 0x10#8, 0x18#8]) :
    ∃ t, exec (.setMode m) s = .next t ∧ (∃ u, exec .getMode t = .next u ∧ u.resp = some ⟨0, m⟩) ∧
      ∀ g ∈ [Instr.getMp, .getEf4, .getStb], ∃ u v, exec g s = .next u ∧ exec g t = .next v ∧ u.resp = v.resp := by
  have h := setsField_setMode hm
  obtain ⟨t, ht, wt⟩ := h.wrote hr
  have bit {n : Nat} (hn : n < 8) (hmask : Config.maskMode.getLsbD n = false) : t.ctl.getLsbD n = s.ctl.getLsbD n := by
    rw [wt.ctl, getLsbD_maskedByte_outside _ h.inside hn hmask]
  obtain ⟨e, -, -, -, mp, ef4, stb⟩ := gettersAnswerFromTheMirror s hr.1 hr.2.2
  obtain ⟨e', -, -, mode', mp', ef4', stb'⟩ := gettersAnswerFromTheMirror t wt.ready.1 wt.ready.2.2
  rw [bit (n := 0) (by decide) (by decide)] at mp'
  rw [bit (n := 2) (by decide) (by decide)] at ef4'
  rw [bit (n := 1) (by decide) (by decide)] at stb'
  refine ⟨t, ht, ⟨_, mode', ?_⟩, ?_⟩
  · rw [wt.ctl]
    exact congrArg (fun v => some (Resp.mk 0 v)) (maskedByte_and_mask s.ctl h.inside)
  · simp only [List.forall_mem_cons, List.not_mem_nil, false_implies, implies_true, and_true]
    exact ⟨⟨_, _, mp, mp', rfl⟩, ⟨_, _, ef4, ef4', rfl⟩, ⟨_, _, stb, stb', rfl⟩⟩

/-- R92 (3): a line or the protect bit asserted and deasserted. -/
theorem toggles_keep_other_bits {s : State} (hr : Ready s) :
    (runAll [.setEf4 true, .setEf4 false] s).map (fun t => t.ctl &&& 0xFB#8) = some (s.ctl &&& 0xFB#8) ∧
    (runAll [.setStb true, .setStb false] s).map (fun t => t.ctl &&& 0xFD#8) = some (s.ctl &&& 0xFD#8) ∧
    (runAll [.setMp true, .setMp false] s).map (fun t => t.ctl &&& 0xFE#8) = some (s.ctl &&& 0xFE#8) :=
  ⟨(setsField_setEf4 true).keeps_others (setsField_setEf4 false) hr,
    (setsField_setStb true).keeps_others (setsField_setStb false) hr,
    (setsField_setMp true).keeps_others (setsField_setMp false) hr⟩

end Sys2Proof.Safety
end

section
/-! PROOFS. GET_DATA after SET_DATA in any environment (rule R92): REL leaves `run` and `data` while the session lives,
and a session without a failure or a kill to come does not end inside a command (rules R44, R146, R168, R180). -/

namespace Sys2Proof.Safety

open Sys2Proof.Machine

/-- No access fails and no point kills in what is to come. -/
def Undisturbed (e : Env) : Prop := Reliable e ∧ NoKill e

/-- From `s` to `t` the session has gone on, with `run` and `data` as they were. -/
structure GoesOn (s t : State) : Prop where
  run : t.run = s.run
  data : t.data = s.data
  env : Undisturbed s.env → Undisturbed t.env

/-- From `s` to `t` a failure or a kill has ended the session. -/
structure Ended (s t : State) : Prop where
  run : t.run = .faulted ∨ t.run = .unattached
  disturbed : ¬ Undisturbed s.env

/-- What any part of a command, or any step of REL, does with the session. -/
def GoesOnOrEnds (s t : State) : Prop := GoesOn s t ∨ Ended s t

theorem GoesOn.refl (s : State) : GoesOn s s := ⟨rfl, rfl, id⟩

theorem GoesOn.trans {s t u : State} (h : GoesOn s t) (h' : GoesOn t u) : GoesOn s u :=
  ⟨h'.run.trans h.run, h'.data.trans h.data, h'.env ∘ h.env⟩

theorem GoesOn.ended {s t u : State} (h : GoesOn s t) (h' : Ended t u) : Ended s u :=
  ⟨h'.run, mt h.env h'.disturbed⟩

theorem Ended.goesOn {s t u : State} (h : Ended s t) (h' : GoesOn t u) : Ended s u :=
  ⟨by rw [h'.run]; exact h.run, h.disturbed⟩

theorem Ended.ended {s t u : State} (h : Ended s t) (h' : Ended t u) : Ended s u := ⟨h'.run, h.disturbed⟩

theorem Ended.not_busy {s t : State} (h : Ended s t) : t.run ≠ .busy := by
  obtain hr | hr := h.run <;> simp [hr]

theorem GoesOn.andThen {s t u : State} (h : GoesOn s t) (h' : GoesOnOrEnds t u) : GoesOnOrEnds s u :=
  h'.imp h.trans h.ended

theorem GoesOnOrEnds.trans {s t u : State} (h : GoesOnOrEnds s t) (h' : GoesOnOrEnds t u) : GoesOnOrEnds s u := by
  obtain h | h := h
  · exact h.andThen h'
  · exact .inr (h'.elim h.goesOn h.ended)

/-! Updates that are no access. -/

theorem goesOn_setCtl (v : Byte) (s : State) : GoesOn s (s.setCtl v) := ⟨rfl, rfl, id⟩
theorem goesOn_setRel (p : Option RelPos) (s : State) : GoesOn s (s.setRel p) := ⟨rfl, rfl, id⟩
theorem goesOn_setRelPending (n : Nat) (s : State) : GoesOn s (s.setRelPending n) := ⟨rfl, rfl, id⟩
theorem goesOn_setSeqPc (p : SeqPc) (s : State) : GoesOn s (s.setSeqPc p) := ⟨rfl, rfl, id⟩

theorem goesOn_popSched {s : State} {sl : Slot} {rest : List Slot} (h : s.env.sched = sl :: rest) :
    GoesOn s (s.setSched rest) :=
  ⟨rfl, rfl, fun hu => ⟨hu.1, fun x hx => hu.2 x (h ▸ List.mem_cons_of_mem sl hx)⟩⟩

/-! Accesses. -/

theorem undisturbed_popPio {s : State} (h : Undisturbed s.env) : Undisturbed s.popPio.env :=
  ⟨⟨fun r hr => h.1.1 r (List.mem_of_mem_tail hr), h.1.2⟩, h.2⟩

theorem disturbed_of_fail {s : State} {left : Byte} (h : s.pioReply = .fail left) : ¬ Undisturbed s.env := by
  intro hu
  simp [pioReply_reliable hu.1] at h

theorem memRead_goesOn (ag : Agent) (r : PortReg) (k : Byte → State → State) (s : State) :
    (∃ v t, GoesOn s t ∧ memRead ag r k s = k v t) ∨ Ended s (memRead ag r k s) := by
  obtain ⟨-, e⟩ | ⟨left, hf, e⟩ := memRead_cases ag r k s
  · exact .inl ⟨_, s.popPio.log (.read ag r (s.periph.get r)), ⟨rfl, rfl, undisturbed_popPio (s := s)⟩, e⟩
  · exact .inr ⟨.inl (by rw [e]; rfl), disturbed_of_fail hf⟩

theorem memWrite_goesOn (ag : Agent) (r : PortReg) (v : Byte) (k : State → State) (s : State) :
    (∃ t, GoesOn s t ∧ memWrite ag r v k s = k t) ∨ Ended s (memWrite ag r v k s) := by
  obtain ⟨-, e⟩ | ⟨left, hf, e⟩ := memWrite_cases ag r v k s
  · exact .inl ⟨(s.popPio.setReg r v).log (.write ag r v), ⟨rfl, rfl, undisturbed_popPio (s := s)⟩, e⟩
  · exact .inr ⟨.inl (by rw [e]; rfl), disturbed_of_fail hf⟩

theorem GoesOnOrEnds.memWrite (ag : Agent) (r : PortReg) (v : Byte) {k : State → State} (hk : ∀ t, GoesOn t (k t))
    (s : State) : GoesOnOrEnds s (memWrite ag r v k s) := by
  obtain ⟨t, h, e⟩ | h := memWrite_goesOn ag r v k s
  · exact .inl (e ▸ h.trans (hk t))
  · exact .inr h

theorem GoesOnOrEnds.readOld (ag : Agent) {k : Byte → State → State} (hk : ∀ v t, GoesOnOrEnds t (k v t)) (s : State) :
    GoesOnOrEnds s (readOld ag k s) := by
  obtain ⟨-, e⟩ | ⟨-, e⟩ := readOld_cases ag k s
  · exact e ▸ hk _ s
  · obtain ⟨v, t, h, e'⟩ | h := memRead_goesOn ag .portB k s
    · exact e ▸ e' ▸ h.andThen (hk v t)
    · exact .inr (e ▸ h)

/-! REL, and a point of the command. -/

theorem relNext_goesOn (l : Line) (s : State) : GoesOn s (relNext l s) := by
  unfold relNext
  split
  · exact .refl s
  · cases l with
    | ef4 => exact goesOn_setRel _ s
    | stb => exact goesOn_setRel _ s

theorem setFieldAtomic_goesOn (ag : Agent) (mask bits : Byte) (s : State) :
    GoesOnOrEnds s (setFieldAtomic ag mask bits s) :=
  .readOld ag (fun _ t => .memWrite ag .portB _ (goesOn_setCtl _) t) s

theorem relAct_goesOn (p : RelPos) (s : State) : GoesOnOrEnds s (relAct p s) := by
  unfold relAct
  split
  · exact (setFieldAtomic_goesOn ..).trans (.inl (relNext_goesOn ..))
  · split
    · exact .readOld _ (fun _ t => .inl (goesOn_setRel _ t)) s
    · exact .memWrite _ _ _ (goesOn_setRel _) s
    · exact .inl ((goesOn_setCtl _ s).trans (relNext_goesOn ..))

theorem relStep_goesOn (s : State) : GoesOnOrEnds s (relStep s) := by
  unfold relStep
  split
  · split
    · exact relAct_goesOn _ s
    · exact ((goesOn_setRelPending _ s).trans (goesOn_setRel _ _)).andThen (relAct_goesOn ..)
    · exact .inl (.refl s)
  · exact .inl (.refl s)

theorem relSteps_goesOn (n : Nat) (s : State) : GoesOnOrEnds s (relSteps n s) := by
  induction n generalizing s with
  | zero => exact .inl (.refl s)
  | succ n ih => exact (relStep_goesOn s).trans (ih _)

theorem deliver_goesOn (arrivals steps : Nat) (s : State) : GoesOnOrEnds s (deliver arrivals steps s) :=
  (goesOn_setRelPending _ s).andThen (relSteps_goesOn ..)

theorem interleave_goesOn (s : State) : GoesOnOrEnds s (interleave s) := by
  obtain ⟨-, e⟩ | ⟨sl, rest, h, hk, e⟩ | ⟨sl, rest, h, -, e⟩ := interleave_cases s
  · exact .inl (by rw [e]; exact .refl s)
  · have killed : ¬ Undisturbed s.env := fun hu => by simp [hu.2 sl (by simp [h])] at hk
    rw [e]
    exact whileLive_keeps (fun _ _ => .inr ⟨.inr rfl, killed⟩) ((goesOn_popSched h).andThen (deliver_goesOn ..))
  · rw [e]
    exact (goesOn_popSched h).andThen (deliver_goesOn ..)

/-! Commands. -/

/-- The next part of a command: it is run if the part before went on, and changes what it changes from `d` to `d'`. -/
theorem GoesOnOrEnds.whileBusy {d d' t : State} {f : State → State} (hb : d.run = .busy) (he : d'.env = d.env)
    (h : GoesOnOrEnds d t) (hf : GoesOn d t → GoesOnOrEnds d' (f t)) : GoesOnOrEnds d' (whileBusy f t) := by
  obtain h | h := h
  · rw [whileBusy_busy (h.run.trans hb)]
    exact hf h
  · rw [whileBusy_done h.not_busy]
    exact .inr ⟨h.run, he ▸ h.disturbed⟩

/-- A command responds, or the session has ended, once its actions have gone on or ended the session. -/
theorem command_goesOn {s d : State} {ms : List Micro} (val : State → Byte) (hb : d.run = .busy) (he : d.env = s.env)
    (h : GoesOnOrEnds d (ms.foldl seqStep (s.setRun .busy))) :
    (∃ t, GoesOn d t ∧ command ms val s = respond stOk (val t) t) ∨ Ended s (command ms val s) := by
  have last : GoesOnOrEnds d (seqRun ms (s.setRun .busy)) := h.whileBusy hb rfl fun g => g.andThen (interleave_goesOn _)
  obtain g | g := last
  · exact .inl ⟨_, g, whileBusy_busy (g.run.trans hb)⟩
  · have hc : command ms val s = seqRun ms (s.setRun .busy) := whileBusy_done g.not_busy
    exact .inr ⟨hc ▸ g.run, he ▸ g.disturbed⟩

theorem writeData_goesOn (b : Byte) {d s : State} (h : GoesOn d s) : GoesOnOrEnds (d.setData b) (writeData b s) := by
  obtain ⟨t, g, e⟩ | g := memWrite_goesOn .seq .portA b (State.setData b) s
  · exact .inl (by rw [writeData, e]; exact ⟨(h.trans g).run, rfl, (h.trans g).env⟩)
  · exact .inr ⟨g.run, (h.ended g).disturbed⟩

/-- SET_DATA leaves its byte in `data`, whatever REL does (R82). -/
theorem setDataCommand_goesOn {s : State} (hi : s.run = .idle) (b : Byte) :
    GoesOnOrEnds (s.setData b) (setDataCommand b s) := by
  have act : GoesOnOrEnds ((s.setRun .busy).setData b) (seqStep (s.setRun .busy) ⟨.empty, .setData b⟩) := by
    have point : GoesOnOrEnds (s.setRun .busy) (interleave ((s.setRun .busy).setSeqPc .empty)) :=
      (goesOn_setSeqPc _ _).andThen (interleave_goesOn _)
    rw [seqStep, whileBusy_busy rfl]
    exact point.whileBusy (d := s.setRun .busy) rfl rfl (writeData_goesOn b)
  obtain ⟨t, g, e⟩ | g := command_goesOn (s := s) (ms := [⟨.empty, .setData b⟩]) noValue
    (d := (s.setRun .busy).setData b) rfl rfl act
  · exact .inl (by rw [setDataCommand, e]; exact ⟨hi.symm, g.data, g.env⟩)
  · exact .inr ⟨g.run, g.disturbed⟩

/-- GET_DATA answers `data`, whatever REL does (R81). -/
theorem getDataCommand_goesOn {s : State} (hi : s.run = .idle) :
    GoesOn s (getDataCommand s) ∧ (getDataCommand s).resp = some ⟨0, s.data⟩ ∨ Ended s (getDataCommand s) := by
  obtain ⟨t, g, e⟩ | g := command_goesOn (s := s) (d := s.setRun .busy) (ms := []) (fun s => s.data) rfl rfl
    (.inl (.refl _))
  · refine .inl ?_
    rw [getDataCommand, getterCommand, e, respond_resp, show t.data = s.data from g.data]
    exact ⟨⟨hi.symm, g.data, g.env⟩, rfl⟩
  · exact .inr g

/-- R92 (2): a session that lives to the end answers the byte set. -/
theorem getData_after_setData {s t u : State} {b : Byte} (hi : s.run = .idle) (ht : exec (.setData b) s = .next t)
    (hu : exec .getData t = .next u) (hl : u.run = .idle) : u.resp = some ⟨0, b⟩ := by
  obtain ⟨-, rfl⟩ | ⟨hb, -⟩ := whenIdle_next (k := setDataCommand b) ht
  swap
  · simp [hi] at hb
  obtain ⟨hti, rfl⟩ | ⟨hb, rfl⟩ := whenIdle_next (k := getDataCommand) hu
  swap
  · simp [hl] at hb
  obtain g | g := setDataCommand_goesOn hi b
  swap
  · obtain hr | hr := g.run <;> simp [hr] at hti
  obtain ⟨-, hr⟩ | g' := getDataCommand_goesOn hti
  · rw [hr, g.data]
    rfl
  · obtain hr | hr := g'.run <;> simp [hr] at hl

/-- R92 (2): without a failure and without a kill it lives to the end. -/
theorem setData_getData_complete {s : State} (b : Byte) (hi : s.run = .idle) (hu : Undisturbed s.env) :
    (runAll [.setData b, .getData] s).map (·.run) = some .idle := by
  have hset : exec (.setData b) s = .next (setDataCommand b s) := whenIdle_idle hi _
  have g := (setDataCommand_goesOn hi b).resolve_right fun g => g.disturbed hu
  have hti : (setDataCommand b s).run = .idle := g.run.trans hi
  have hget : exec .getData (setDataCommand b s) = .next (getDataCommand (setDataCommand b s)) := whenIdle_idle hti _
  obtain ⟨g', -⟩ := (getDataCommand_goesOn hti).resolve_right fun g' => g'.disturbed (g.env hu)
  rw [runAll_cons hset, runAll_cons hget]
  exact congrArg some (g'.run.trans hti)

/-- Settles O18: (1) and (3) are facts of the masked write; (2) holds since REL has no access to `data`. -/
theorem settersAndGettersHaveTheSourcesThreeProperties : Obligations.SettersAndGettersHaveTheSourcesThreeProperties :=
  ⟨fun _ hr => ⟨fun _ hm => getters_after_setMode hr hm, toggles_keep_other_bits hr⟩,
    fun _ b hi => ⟨fun _ _ ht hu hl => getData_after_setData hi ht hu hl,
      fun hr hk => setData_getData_complete b hi ⟨hr, hk⟩⟩⟩

end Sys2Proof.Safety
end

section
/-! PROOFS. With `RMW_SOURCE = port` and atomic setters, each write of a field of port B follows a read of it, by either
agent, and a failed read ends the command with nothing written (rules R44, R80, R111, R146, R165, R168). -/

namespace Sys2Proof.Safety

open Sys2Proof.Machine

/-- `s` with `v` on port B and in its mirror, and these events recorded. -/
def withPortB (s : State) (v : Byte) (es : List Event) : State :=
  { s with ctl := v, periph := { s.periph with portB := v }, trace := s.trace ++ es }

/-- One field of port B rewritten by an agent from the byte it reads there. -/
def fieldRewritten (ag : Agent) (mask bits : Byte) (s : State) : State :=
  { withPortB s (maskedByte s.periph.portB mask bits)
      [.read ag .portB s.periph.portB, .write ag .portB (maskedByte s.periph.portB mask bits)] with
    env := { s.env with pio := s.env.pio.tail.tail } }

section
variable {s : State}

theorem setFieldAtomic_port (hp : s.cfg.rmwSource = .port) (hr : Reliable s.env) (ag : Agent) (mask bits : Byte) :
    setFieldAtomic ag mask bits s = fieldRewritten ag mask bits s := by
  have hread : s.pioReply = .ok := pioReply_reliable hr
  have hwrite : (s.popPio.log (.read ag .portB (s.periph.get .portB))).pioReply = .ok :=
    pioReply_reliable ⟨fun r h => hr.1 r (List.mem_of_mem_tail h), hr.2⟩
  simp only [setFieldAtomic, readOld, hp, memRead, hread, memWrite, hwrite]
  simp [fieldRewritten, withPortB, State.log, State.setCtl, State.setReg, State.popPio, Periph.set, Periph.get]

/-! The sequencer. -/

/-- The effect of one action on the bus when setters read port B. -/
def actBusPort (b : Bus) (m : Micro) : Bus :=
  match m.act with
  | .setField mask bits => (b.note (.read .seq .portB b.portB)).putB (maskedByte b.portB mask bits)
  | _ => actBus b m

theorem perform_port (hc : s.cfg = ⟨.port, true⟩) {m : Micro} (hm : m.act.onPortB = true) (b : Bus) {e : Env}
    (he : Calm e) : ∃ e', Calm e' ∧
      m.act.perform (running s b e m.pos s.handle) = running s (actBusPort b m) e' m.pos s.handle := by
  obtain ⟨pc, act⟩ := m
  cases act with
  | setField mask bits =>
    have atomic : (Action.setField mask bits).perform (running s b e pc s.handle) =
        setFieldAtomic .seq mask bits (running s b e pc s.handle) := if_pos (show s.cfg.rmwAtomic = true by rw [hc])
    refine ⟨_, calm_popPio (calm_popPio he), ?_⟩
    have port : (running s b e pc s.handle).cfg.rmwSource = .port := show s.cfg.rmwSource = .port by rw [hc]
    rw [atomic, setFieldAtomic_port port he.1]
    simp [fieldRewritten, withPortB, running, withBus, actBusPort, Bus.note, Bus.putB, wB]
  | holdBegin => exact ⟨e, he, rfl⟩
  | holdEnd => exact ⟨e, he, rfl⟩
  | setData b => cases hm
  | imgOpen k => cases hm
  | imgNext k x => cases hm

theorem foldl_seqStep_port (hc : s.cfg = ⟨.port, true⟩) {ms : List Micro} (hms : ∀ m ∈ ms, m.act.onPortB = true)
    (b : Bus) {e : Env} (he : Calm e) (pc : SeqPc) : ∃ e' pc', Calm e' ∧
      ms.foldl seqStep (running s b e pc s.handle) = running s (ms.foldl actBusPort b) e' pc' s.handle := by
  induction ms generalizing b e pc with
  | nil => exact ⟨e, pc, he, rfl⟩
  | cons m ms ih =>
    obtain ⟨hm, hms⟩ := List.forall_mem_cons.1 hms
    obtain ⟨e1, h1, point⟩ := interleave_calm (s := (running s b e pc s.handle).setSeqPc m.pos) he
    obtain ⟨e2, h2, act⟩ := perform_port hc hm b h1
    obtain ⟨e3, pc3, h3, rest⟩ := ih hms (actBusPort b m) h2 m.pos
    refine ⟨e3, pc3, h3, ?_⟩
    rw [List.foldl_cons, seqStep_go (t := running s b e1 m.pos s.handle) rfl point rfl, act, rest]
    rfl

/-- A whole command of port B under calm, when setters read port B. -/
theorem command_port (hi : s.run = .idle) (hc : s.cfg = ⟨.port, true⟩) (he : Calm s.env) {ms : List Micro}
    (hms : ∀ m ∈ ms, m.act.onPortB = true) : ∃ e, Calm e ∧
      whenIdle (command ms noValue) s = .next (answered (withBus s (ms.foldl actBusPort (busOf s))) e 0 0x00#8) := by
  have start : s.setRun .busy = running s (busOf s) s.env s.seqPc s.handle := rfl
  obtain ⟨e1, pc, h1, acts⟩ := foldl_seqStep_port hc hms (busOf s) he s.seqPc
  obtain ⟨e2, h2, last⟩ := interleave_calm (s := running s (ms.foldl actBusPort (busOf s)) e1 pc s.handle) h1
  refine ⟨e2, h2, ?_⟩
  rw [whenIdle_idle hi, command, seqRun, start, acts, whileBusy_busy (f := interleave) rfl, last, whileBusy_busy rfl]
  rfl

theorem SetsField.exec_port {i : Instr} {mask bits : Byte} (h : SetsField i mask bits) (hi : s.run = .idle)
    (hc : s.cfg = ⟨.port, true⟩) (he : Calm s.env) : ∃ e, Calm e ∧
      exec i s = .next (answered (withPortB s (maskedByte s.periph.portB mask bits)
        [.read .seq .portB s.periph.portB, wB (maskedByte s.periph.portB mask bits)]) e 0 0x00#8) := by
  obtain ⟨e, he, hx⟩ := command_port hi hc he (ms := [⟨.empty, .setField mask bits⟩]) (by simp [Action.onPortB])
  refine ⟨e, he, ?_⟩
  rw [h.exec_eq, setterCommand, hx]
  simp [withPortB, withBus, busOf, actBusPort, Bus.note, Bus.putB]

/-- Deasserted after it was asserted, `ef4_n` is as deasserted at once. -/
theorem and_or_ef4 : ∀ p : Byte, (p &&& 0xFB#8) ||| 0x04#8 = p ||| 0x04#8 := by decide

theorem exec_pulse_port (hi : s.run = .idle) (hc : s.cfg = ⟨.port, true⟩) (he : Calm s.env) : ∃ e, Calm e ∧
    exec .pulse s = .next (answered (withPortB s (s.periph.portB ||| 0x04#8)
      [.read .seq .portB s.periph.portB, wB (s.periph.portB &&& 0xFB#8), .holdBegin 5, .holdEnd,
       .read .seq .portB (s.periph.portB &&& 0xFB#8), wB (s.periph.portB ||| 0x04#8)]) e 0 0x00#8) := by
  obtain ⟨e, he, hx⟩ := command_port hi hc he (pulseMicros_onPortB [] 0)
  refine ⟨e, he, hx.trans ?_⟩
  simp [pulseMicros, withPortB, withBus, busOf, actBusPort, actBus, Bus.note, Bus.putB, masked_ef4,
    and_or_ef4, Config.tPulseMs]

/-! The release. -/

theorem relStep_port (hi : s.run = .idle) (hc : s.cfg = ⟨.port, true⟩) (hr : Reliable s.env) (l : Line) :
    relStep (s.setRel (some ⟨l, .start⟩)) = (fieldRewritten .rel l.mask l.mask s).setRel (relAfter l) := by
  have hp : (s.setRel (some ⟨l, .start⟩)).cfg.rmwSource = .port := by simp [hc]
  rw [relStep_at hi, relAct, if_pos (by simp [hc]), setFieldAtomic_port hp hr]
  exact relNext_idle (s := fieldRewritten .rel l.mask l.mask s) hi l _

/-- One event handled: its two lines, one after the other. -/
def eventRewritten (s : State) : State :=
  (fieldRewritten .rel Line.stb.mask Line.stb.mask (fieldRewritten .rel Line.ef4.mask Line.ef4.mask s)).setRel none

/-- The event just delivered is two steps, and the steps left over do nothing. -/
theorem relDrain_port (hi : s.run = .idle) (hc : s.cfg = ⟨.port, true⟩) (he : Calm s.env) (hn : s.relPending = 0)
    (hrel : s.rel = none) : relDrain (s.setRelPending 1) = eventRewritten s := by
  have same : (s.setRelPending 1).setRelPending 0 = s := by rw [State.setRelPending, ← hn]; rfl
  have first : relStep (s.setRelPending 1) =
      (fieldRewritten .rel Line.ef4.mask Line.ef4.mask s).setRel (some ⟨.stb, .start⟩) := by
    rw [relStep_begins (n := 0) (s := s.setRelPending 1) hi hrel rfl, same, relStep_port hi hc he.1, relAfter]
  have second := relStep_port (s := fieldRewritten .rel Line.ef4.mask Line.ef4.mask s) hi hc
    (calm_popPio (calm_popPio he)).1 .stb
  rw [relDrain, show 6 * ((s.setRelPending 1).relPending + 1) = 10 + 1 + 1 from rfl, relSteps, relSteps, first, second]
  exact relSteps_nothing 10 hn rfl

theorem exec_release_port (hi : s.run = .idle) (hc : s.cfg = ⟨.port, true⟩) (he : Calm s.env) (hn : s.relPending = 0)
    (hrel : s.rel = none) : ∃ e, Calm e ∧ exec .release s = .next
      { withPortB s (s.periph.portB ||| 0x06#8)
          [.read .rel .portB s.periph.portB, .write .rel .portB (s.periph.portB ||| 0x04#8),
           .read .rel .portB (s.periph.portB ||| 0x04#8), .write .rel .portB (s.periph.portB ||| 0x06#8)] with
        env := e } := by
  refine ⟨_, calm_popPio (calm_popPio (calm_popPio (calm_popPio he))), ?_⟩
  have hx : exec .release s = .next (relDrain (s.setRelPending (s.relPending + 1))) := if_pos (.inl hi)
  rw [hx, hn, relDrain_port hi hc he hn hrel]
  simp [eventRewritten, fieldRewritten, withPortB, State.setRel, masked_line, or_lines, hrel, hn]
  rfl

/-! A setter whose read fails. -/

theorem setField_readFail {left : Byte} {rest : List PioReply} (hc : s.cfg = ⟨.port, true⟩)
    (hf : s.env.pio = .fail left :: rest) (mask bits : Byte) :
    setField mask bits s = raise (.portIOError .b .read) (s.popPio.log (.readFail .seq .portB)) := by
  simp [setField, setFieldAtomic, readOld, memRead, State.pioReply, hc, hf, accessFault]

theorem SetsField.exec_readFail {i : Instr} {mask bits left : Byte} {rest : List PioReply} (h : SetsField i mask bits)
    (hi : s.run = .idle) (hc : s.cfg = ⟨.port, true⟩) (hf : s.env.pio = .fail left :: rest) (hs : s.env.sched = []) :
    exec i s = .next
      { s with
        run := .faulted, cause := .portIOError .b .read, loop := .exitedFailure, seqPc := .empty
        resp := some ⟨5, 0x00#8⟩, env := ⟨rest, s.env.img, []⟩
        trace := s.trace ++ [.readFail .seq .portB, .resp ⟨5, 0x00#8⟩] } := by
  have point : interleave (accepted s) = accepted s := by simp [interleave, accepted, hs]
  have fails : seqStep (s.setRun .busy) ⟨.empty, .setField mask bits⟩ =
      raise (.portIOError .b .read) ((accepted s).popPio.log (.readFail .seq .portB)) :=
    (seqStep_go rfl point rfl).trans (setField_readFail (s := accepted s) hc hf mask bits)
  rw [h.exec_eq, whenIdle_idle hi, setterCommand, command, seqRun, List.foldl_cons, List.foldl_nil, fails,
    whileBusy_done (f := interleave) (by simp), whileBusy_done (by simp)]
  simp [accepted, raise, State.log, State.popPio, State.setSeqPc, State.setRun, Cause.code, hf, hs]

end

/-- Settles O17: a setter rewrites its field from the byte it reads; PULSE and RELEASE are two of these each. -/
theorem portSourceSettersReadPortB : Obligations.PortSourceSettersReadPortB := by
  intro s m v hi hc hm p wrote set
  have mode := setsField_setMode hm
  have mp := setsField_setMp v
  have ef4 := setsField_setEf4 v
  have stb := setsField_setStb v
  refine ⟨fun he => ⟨?mode, ?mp, ?ef4, ?stb, ?pulse, ?release⟩, fun left rest hf hs => ?fails⟩
  case mode => exact mode.exec_port hi hc he
  case mp =>
    have h := mp.exec_port hi hc he
    rwa [masked_mp] at h
  case ef4 =>
    have h := ef4.exec_port hi hc he
    rwa [masked_ef4] at h
  case stb =>
    have h := stb.exec_port hi hc he
    rwa [masked_stb] at h
  case pulse => exact exec_pulse_port hi hc he
  case release => exact exec_release_port hi hc he
  case fails =>
    simp only [List.forall_mem_cons, List.not_mem_nil, false_implies, implies_true, and_true]
    exact ⟨mode.exec_readFail hi hc hf hs, mp.exec_readFail hi hc hf hs, ef4.exec_readFail hi hc hf hs,
      stb.exec_readFail hi hc hf hs⟩

end Sys2Proof.Safety
end

section
/-! PROOFS. The sixteen mode transitions, each one SET_MODE with one write of port B (rules R84, R103). -/

namespace Sys2Proof.Safety

open Sys2Proof.Machine

/-- Settles O13: SET_MODE with a mode code is a setter, and its masked byte replaces bits 4:3 of the mirror. -/
theorem setModeWritesTheModeField : Obligations.SetModeWritesTheModeField := by
  intro s m hr hm
  have mode := (setsField_setMode hm).exec_calm hr
  rwa [masked_mode] at mode

end Sys2Proof.Safety
end

section
/-! PROOFS. The composites in a calm environment (rules R110 to R114): the actions of each step fold to its effect on
the bus, and a fixed sequence folds step by step. -/

namespace Sys2Proof.Safety

open Sys2Proof.Machine

/-! PULSE and LOAD_PROGRAM. -/

theorem foldl_actBus_pulse (outer : List Frame) (k : Nat) (b : Bus) :
    (pulseMicros outer k).foldl actBus b = b.pulse := by
  simp [pulseMicros, actBus, masked_ef4, Bus.pulse, Bus.setEf4, Bus.putB, Bus.note, Config.tPulseMs]

/-- One byte of LOAD_PROGRAM, steps 2 to 4 (R112). -/
def byteMicros (outer : List Frame) (img : ImageId) (k : Nat) (x : Byte) : List Micro :=
  ⟨⟨outer ++ [⟨.loadProgram, 2⟩], k⟩, .imgNext img (some x)⟩ ::
  ⟨⟨outer ++ [⟨.loadProgram, 3⟩], k⟩, .setData x⟩ :: pulseMicros (outer ++ [⟨.loadProgram, 4⟩]) k

theorem loadLoopMicros_cons (outer : List Frame) (img : ImageId) (k : Nat) (x : Byte) (xs : List Byte) :
    loadLoopMicros outer img k (x :: xs) = byteMicros outer img k x ++ loadLoopMicros outer img (k + 1) xs := rfl

theorem foldl_actBus_byte (outer : List Frame) (img : ImageId) (k : Nat) (x : Byte) (b : Bus) :
    (byteMicros outer img k x).foldl actBus b = b.loadByte img x :=
  foldl_actBus_pulse ..

theorem foldl_actBus_loadLoop (outer : List Frame) (img : ImageId) (k : Nat) (bytes : List Byte) (b : Bus) :
    (loadLoopMicros outer img k bytes).foldl actBus b = (bytes.foldl (Bus.loadByte img) b).note (.imgEof img) := by
  induction bytes generalizing k b with
  | nil => rfl
  | cons x xs ih =>
    rw [loadLoopMicros_cons, List.foldl_append, foldl_actBus_byte, ih, List.foldl_cons]

theorem foldl_actBus_load (outer : List Frame) (img : ImageId) (bytes : List Byte) (b : Bus) :
    (loadProgramMicros outer img bytes).foldl actBus b = b.load img bytes :=
  foldl_actBus_loadLoop ..

/-- Whatever image was open, at the end of the stream none is. -/
theorem foldl_actHandle_loadLoop (outer : List Frame) (img : ImageId) (k : Nat) (bytes : List Byte)
    (h : Option ImageId) : (loadLoopMicros outer img k bytes).foldl actHandle h = none := by
  induction bytes generalizing k h with
  | nil => rfl
  | cons x xs ih => rw [loadLoopMicros_cons, List.foldl_append, ih]

theorem foldl_actHandle_load (outer : List Frame) (img : ImageId) (bytes : List Byte) (h : Option ImageId) :
    (loadProgramMicros outer img bytes).foldl actHandle h = none :=
  foldl_actHandle_loadLoop ..

/-! The fixed sequences. -/

/-- The effect of one step on the bus. -/
def stepBus (im : Images) (b : Bus) : FixedStep → Bus
  | .mode m => b.setMode m.code
  | .mp v => b.setMp v
  | .data x => b.putA x
  | .pulse => b.pulse
  | .load img => b.load img (im.bytes img)

/-- The image left open by one step: a load leaves none. -/
def stepHandle (h : Option ImageId) : FixedStep → Option ImageId
  | .load _ => none
  | .mode _ | .mp _ | .data _ | .pulse => h

theorem foldl_actBus_step (op : CompositeOp) (im : Images) (n : Nat) (st : FixedStep) (b : Bus) :
    (st.micros op im n).foldl actBus b = stepBus im b st := by
  cases st with
  | mode m => rfl
  | mp v => exact congrArg b.putB (masked_mp b.ctl v)
  | data x => rfl
  | pulse => exact foldl_actBus_pulse ..
  | load img => exact foldl_actBus_load ..

theorem foldl_actHandle_step (op : CompositeOp) (im : Images) (n : Nat) (st : FixedStep) (h : Option ImageId) :
    (st.micros op im n).foldl actHandle h = stepHandle h st := by
  cases st with
  | load img => exact foldl_actHandle_load ..
  | mode | mp | data | pulse => rfl

theorem foldl_actBus_fixed (op : CompositeOp) (im : Images) (n : Nat) (sts : List FixedStep) (b : Bus) :
    (fixedMicros op im n sts).foldl actBus b = sts.foldl (stepBus im) b := by
  induction sts generalizing n b with
  | nil => rfl
  | cons st sts ih => rw [fixedMicros, List.foldl_append, foldl_actBus_step, ih, List.foldl_cons]

theorem foldl_actHandle_fixed (op : CompositeOp) (im : Images) (n : Nat) (sts : List FixedStep) (h : Option ImageId) :
    (fixedMicros op im n sts).foldl actHandle h = sts.foldl stepHandle h := by
  induction sts generalizing n h with
  | nil => rfl
  | cons st sts ih => rw [fixedMicros, List.foldl_append, foldl_actHandle_step, ih, List.foldl_cons]

/-- The nineteen steps one after another, as R113 lists them. -/
theorem foldl_stepBus_loadMonitor (im : Images) (b : Bus) :
    loadMonitorSteps.foldl (stepBus im) b = b.loadMonitor im := rfl

/-- The ten steps one after another, as R114 lists them. -/
theorem foldl_stepBus_runMonitor (im : Images) (b : Bus) :
    runMonitorSteps.foldl (stepBus im) b = b.runMonitor := rfl

/-! Whole commands. -/

/-- A command that gives up its image, under calm: the bus its actions fold to, and no image open. -/
theorem command_noImage_calm {s : State} (hr : Ready s) {ms : List Micro} (hh : ms.foldl actHandle s.handle = none) :
    ∃ e, Calm e ∧ whenIdle (command ms noValue) s =
      .next (answered { withBus s (ms.foldl actBus (busOf s)) with handle := none } e 0 0x00#8) := by
  obtain ⟨e, he, hx⟩ := command_calm hr ms noValue fun _ _ _ _ => rfl
  refine ⟨e, he, ?_⟩
  rw [whenIdle_idle hr.1, hx, hh]
  rfl

theorem loadProgram_calm {s : State} (hr : Ready s) (img : ImageId) :
    ∃ e, Calm e ∧ whenIdle (loadProgramCommand img) s =
      .next (answered { withBus s ((busOf s).load img (s.images.bytes img)) with handle := none } e 0 0x00#8) := by
  rw [← foldl_actBus_load []]
  exact command_noImage_calm hr (foldl_actHandle_load ..)

/-- Settles O21: its four actions fold to an assert, a hold and a deassert. -/
theorem pulseAssertsHoldsAndDeasserts : Obligations.PulseAssertsHoldsAndDeasserts := by
  intro s hr
  rw [← foldl_actBus_pulse [] 0]
  exact command_noValue_calm hr (pulseMicros [] 0) rfl

/-- Settles O22: the loop over the stream folds to the bytes sent in order, whatever they are. -/
theorem loadProgramSendsEveryByteInOrder : Obligations.LoadProgramSendsEveryByteInOrder :=
  fun _ hr => ⟨loadProgram_calm hr .bootstrap, loadProgram_calm hr .monitor, loadProgram_calm hr .bios⟩

/-- Settles O23: its actions fold to the nineteen steps, of which the loads leave no image open. -/
theorem loadMonitorRunsItsNineteenSteps : Obligations.LoadMonitorRunsItsNineteenSteps := by
  intro s hr
  rw [← foldl_stepBus_loadMonitor, ← foldl_actBus_fixed .loadMonitor s.images 1]
  exact command_noImage_calm hr (foldl_actHandle_fixed ..)

/-- Settles O24: its actions fold to the ten steps, none of which opens an image. -/
theorem runMonitorRunsItsTenSteps : Obligations.RunMonitorRunsItsTenSteps := by
  intro s hr
  rw [← foldl_stepBus_runMonitor s.images, ← foldl_actBus_fixed .runMonitor s.images 1]
  exact command_noValue_calm hr _ (foldl_actHandle_fixed ..)

end Sys2Proof.Safety
end

section
/-! PROOFS. What the fixed sequences leave in `ctl` and `data`, and how many writes and pulses they make in what time
(rules R113 to R115, R213): counted step by step. -/

namespace Sys2Proof.Safety

open Sys2Proof.Machine

/-! Counting events. -/

theorem leastMs_append (es fs : List Event) : leastMs (es ++ fs) = leastMs es + leastMs fs := by
  induction es with
  | nil => simp [leastMs]
  | cons e es ih => cases e <;> simp [leastMs, ih, Nat.add_assoc]

/-- These events are `w` writes, `h` holds and, for the rest, accesses that take no time; each hold is 5 ms. -/
structure Counts (w h : Nat) (es : List Event) : Prop where
  writes : (es.filter isWrite).length = w
  holds : (es.filter isHold).length = h
  time : leastMs es = 5 * h

theorem Counts.append {w h w' h' : Nat} {es fs : List Event} (c : Counts w h es) (c' : Counts w' h' fs) :
    Counts (w + w') (h + h') (es ++ fs) where
  writes := by rw [List.filter_append, List.length_append, c.writes, c'.writes]
  holds := by rw [List.filter_append, List.length_append, c.holds, c'.holds]
  time := by rw [leastMs_append, c.time, c'.time, Nat.mul_add]

/-- From `b` to `b'` the record has grown by `w` writes and `h` holds. -/
def Grew (w h : Nat) (b b' : Bus) : Prop := ∃ es, b'.trace = b.trace ++ es ∧ Counts w h es

theorem Grew.refl (b : Bus) : Grew 0 0 b b := ⟨[], (List.append_nil _).symm, rfl, rfl, rfl⟩

theorem Grew.trans {w h w' h' : Nat} {b b' b'' : Bus} (g : Grew w h b b') (g' : Grew w' h' b' b'') :
    Grew (w + w') (h + h') b b'' := by
  obtain ⟨es, e, c⟩ := g
  obtain ⟨fs, e', c'⟩ := g'
  exact ⟨es ++ fs, by rw [e', e, List.append_assoc], c.append c'⟩

theorem grew_putB (v : Byte) (b : Bus) : Grew 1 0 b (b.putB v) := ⟨[wB v], rfl, rfl, rfl, rfl⟩

theorem grew_putA (v : Byte) (b : Bus) : Grew 1 0 b (b.putA v) := ⟨[wA v], rfl, rfl, rfl, rfl⟩

/-- An event that is neither a write nor a hold. -/
theorem grew_note {e : Event} (he : Counts 0 0 [e]) (b : Bus) : Grew 0 0 b (b.note e) := ⟨[e], rfl, he⟩

theorem grew_pulse (b : Bus) : Grew 2 1 b b.pulse := by
  refine ⟨[wB (b.ctl &&& 0xFB#8), .holdBegin 5, .holdEnd, wB ((b.ctl &&& 0xFB#8) ||| 0x04#8)], ?_, rfl, rfl, rfl⟩
  simp [Bus.pulse, Bus.setEf4, Bus.putB]

theorem grew_loadByte (img : ImageId) (b : Bus) (x : Byte) : Grew 3 1 b (b.loadByte img x) :=
  ((grew_note ⟨rfl, rfl, rfl⟩ b).trans (grew_putA x _)).trans (grew_pulse _)

theorem grew_loadBytes (img : ImageId) (bytes : List Byte) (b : Bus) :
    Grew (3 * bytes.length) bytes.length b (bytes.foldl (Bus.loadByte img) b) := by
  induction bytes generalizing b with
  | nil => exact .refl b
  | cons x xs ih =>
    rw [List.length_cons, Nat.mul_succ, Nat.add_comm (3 * _), Nat.add_comm xs.length]
    exact (grew_loadByte img b x).trans (ih _)

theorem grew_load (img : ImageId) (bytes : List Byte) (b : Bus) :
    Grew (3 * bytes.length) bytes.length b (b.load img bytes) := by
  have g := ((grew_note (e := .imgOpen img) ⟨rfl, rfl, rfl⟩ b).trans (grew_loadBytes img bytes _)).trans
    (grew_note (e := .imgEof img) ⟨rfl, rfl, rfl⟩ _)
  rwa [Nat.zero_add, Nat.zero_add] at g

/-- The port writes of a step. -/
def stepWrites (im : Images) : FixedStep → Nat
  | .mode _ | .mp _ | .data _ => 1
  | .pulse => 2
  | .load img => 3 * (im.bytes img).length

/-- The pulses of a step. -/
def stepPulses (im : Images) : FixedStep → Nat
  | .mode _ | .mp _ | .data _ => 0
  | .pulse => 1
  | .load img => (im.bytes img).length

theorem grew_step (im : Images) (b : Bus) (st : FixedStep) :
    Grew (stepWrites im st) (stepPulses im st) b (stepBus im b st) := by
  cases st with
  | mode m => exact grew_putB _ b
  | mp v => exact grew_putB _ b
  | data x => exact grew_putA x b
  | pulse => exact grew_pulse b
  | load img => exact grew_load img _ b

theorem grew_steps (im : Images) (sts : List FixedStep) (b : Bus) :
    Grew (sts.map (stepWrites im)).sum (sts.map (stepPulses im)).sum b (sts.foldl (stepBus im) b) := by
  induction sts generalizing b with
  | nil => exact .refl b
  | cons st sts ih => exact (grew_step im b st).trans (ih _)

theorem grew_runMonitor (b : Bus) : Grew 13 3 b b.runMonitor := grew_steps ⟨[], [], []⟩ runMonitorSteps b

theorem grew_loadMonitor (im : Images) (b : Bus) {n : Nat}
    (hn : n = im.bootstrap.length + im.monitor.length + im.bios.length) :
    Grew (20 + 3 * n) (n + 4) b (b.loadMonitor im) := by
  have g := grew_steps im loadMonitorSteps b
  have writes : (loadMonitorSteps.map (stepWrites im)).sum = 20 + 3 * n := by
    simp only [loadMonitorSteps, List.map_cons, List.map_nil, List.sum_cons, List.sum_nil, stepWrites, Images.bytes, hn]
    ring
  have pulses : (loadMonitorSteps.map (stepPulses im)).sum = n + 4 := by
    simp only [loadMonitorSteps, List.map_cons, List.map_nil, List.sum_cons, List.sum_nil, stepPulses, Images.bytes, hn]
    ring
  rwa [writes, pulses] at g

/-! The mirrors. -/

theorem Bus.loadBytes_data (img : ImageId) (bytes : List Byte) (b : Bus) :
    (bytes.foldl (Bus.loadByte img) b).data = bytes.getLastD b.data := by
  induction bytes generalizing b with
  | nil => rfl
  | cons x xs ih => rw [List.foldl_cons, ih, List.getLastD_cons]; rfl

/-- A pulse leaves `ef4_n` deasserted and the other bits as they were. -/
theorem Bus.pulse_ctl (b : Bus) : b.pulse.ctl = b.ctl ||| 0x04#8 := and_or_ef4 b.ctl

/-- What the pulses of an image's bytes set: `ef4_n` deasserted, if there is a byte at all (log entry 26). -/
def pulsedBits : List Byte → Byte
  | [] => 0x00#8
  | _ :: _ => 0x04#8

theorem pulsedBits_mem (bytes : List Byte) : pulsedBits bytes ∈ [0x00#8, 0x04#8] := by
  cases bytes <;> simp [pulsedBits]

theorem Bus.loadBytes_ctl (img : ImageId) (bytes : List Byte) (b : Bus) :
    (bytes.foldl (Bus.loadByte img) b).ctl = b.ctl ||| pulsedBits bytes := by
  induction bytes generalizing b with
  | nil => exact BitVec.or_zero.symm
  | cons x xs ih =>
    have pulsed : (b.loadByte img x).ctl = b.ctl ||| 0x04#8 := Bus.pulse_ctl _
    have absorb : 0x04#8 ||| pulsedBits xs = 0x04#8 := by
      cases xs with
      | nil => rfl
      | cons => exact BitVec.or_self
    rw [List.foldl_cons, ih, pulsed, BitVec.or_assoc, absorb, pulsedBits]

/-- The effect of one step on `data`; a load leaves the last byte of its image. -/
def stepData (im : Images) (d : Byte) : FixedStep → Byte
  | .data x => x
  | .load img => (im.bytes img).getLastD d
  | .mode _ | .mp _ | .pulse => d

/-- The effect of one step on `ctl`, where the pulses of image `k` set the bits `p k`. -/
def stepCtl (p : ImageId → Byte) (c : Byte) : FixedStep → Byte
  | .mode m => (c &&& 0xE7#8) ||| m.code
  | .mp v => if v then c ||| 0x01#8 else c &&& 0xFE#8
  | .data _ => c
  | .pulse => c ||| 0x04#8
  | .load img => c ||| p img

theorem stepBus_data (im : Images) (b : Bus) (st : FixedStep) : (stepBus im b st).data = stepData im b.data st := by
  cases st with
  | load img => exact Bus.loadBytes_data ..
  | mode | mp | data | pulse => rfl

theorem stepBus_ctl (im : Images) (b : Bus) (st : FixedStep) :
    (stepBus im b st).ctl = stepCtl (fun k => pulsedBits (im.bytes k)) b.ctl st := by
  cases st with
  | pulse => exact Bus.pulse_ctl b
  | load img => exact Bus.loadBytes_ctl ..
  | mode | mp | data => rfl

theorem foldl_stepBus_data (im : Images) (sts : List FixedStep) (b : Bus) :
    (sts.foldl (stepBus im) b).data = sts.foldl (stepData im) b.data := by
  induction sts generalizing b with
  | nil => rfl
  | cons st sts ih => rw [List.foldl_cons, ih, stepBus_data, List.foldl_cons]

theorem foldl_stepBus_ctl (im : Images) (sts : List FixedStep) (b : Bus) :
    (sts.foldl (stepBus im) b).ctl = sts.foldl (stepCtl fun k => pulsedBits (im.bytes k)) b.ctl := by
  induction sts generalizing b with
  | nil => rfl
  | cons st sts ih => rw [List.foldl_cons, ih, stepBus_ctl, List.foldl_cons]

/-- A byte for each image. -/
def perImage (x y z : Byte) : ImageId → Byte
  | .bootstrap => x
  | .monitor => y
  | .bios => z

theorem pulsedBits_eq_perImage (im : Images) : (fun k => pulsedBits (im.bytes k)) =
    perImage (pulsedBits im.bootstrap) (pulsedBits im.monitor) (pulsedBits im.bios) :=
  funext fun k => by cases k <;> rfl

/-- RUN_MONITOR leaves mem_protect, `stb_n` and bits 7:5. -/
theorem Bus.runMonitor_ctl (b : Bus) : b.runMonitor.ctl = (b.ctl &&& 0xE7#8) ||| 0x1C#8 := by
  rw [← foldl_stepBus_runMonitor ⟨[], [], []⟩, foldl_stepBus_ctl]
  simp [runMonitorSteps, stepCtl, Mode.code, Config.mReset, Config.mLoad, Config.mRun, BitVec.and_or_distrib_right,
    BitVec.and_assoc, BitVec.or_assoc]

/-- Whether image 0 is empty or not, ten steps of LOAD_MONITOR leave `stb_n` and bits 7:5, and the target in RUN. -/
theorem ctl_after_ten_steps (im : Images) (b : Bus) :
    ((loadMonitorSteps.take 10).foldl (stepBus im) b).ctl = (b.ctl &&& 0xE6#8) ||| 0x1C#8 := by
  have bits : ∀ x ∈ [0x00#8, 0x04#8], ∀ (y z c : Byte),
      (loadMonitorSteps.take 10).foldl (stepCtl (perImage x y z)) c = (c &&& 0xE6#8) ||| 0x1C#8 := by
    simp [loadMonitorSteps, stepCtl, perImage, Mode.code, Config.mReset, Config.mLoad, Config.mRun,
      BitVec.and_or_distrib_right, BitVec.and_assoc, BitVec.or_assoc]
  rw [foldl_stepBus_ctl, pulsedBits_eq_perImage]
  exact bits _ (pulsedBits_mem _) _ _ _

/-- Whichever images are empty, LOAD_MONITOR leaves `stb_n` and bits 7:5. -/
theorem Bus.loadMonitor_ctl (im : Images) (b : Bus) : (b.loadMonitor im).ctl = (b.ctl &&& 0xE6#8) ||| 0x14#8 := by
  have bits : ∀ x ∈ [0x00#8, 0x04#8], ∀ y ∈ [0x00#8, 0x04#8], ∀ z ∈ [0x00#8, 0x04#8], ∀ c : Byte,
      loadMonitorSteps.foldl (stepCtl (perImage x y z)) c = (c &&& 0xE6#8) ||| 0x14#8 := by
    simp [loadMonitorSteps, stepCtl, perImage, Mode.code, Config.mReset, Config.mLoad, Config.mRun,
      BitVec.and_or_distrib_right, BitVec.and_assoc, BitVec.or_assoc]
  rw [← foldl_stepBus_loadMonitor, foldl_stepBus_ctl, pulsedBits_eq_perImage]
  exact bits _ (pulsedBits_mem _) _ (pulsedBits_mem _) _ (pulsedBits_mem _) _

theorem Bus.runMonitor_data (b : Bus) : b.runMonitor.data = 0x00#8 :=
  foldl_stepBus_data ⟨[], [], []⟩ runMonitorSteps b

theorem Bus.loadMonitor_data (im : Images) (b : Bus) : (b.loadMonitor im).data = im.bios.getLastD 0x00#8 :=
  foldl_stepBus_data im loadMonitorSteps b

/-! Ends of a command. -/

/-- The fields of the byte RUN_MONITOR leaves. -/
theorem fields_after_runMonitor : ∀ c : Byte, modeOf ((c &&& 0xE7#8) ||| 0x1C#8) = .run ∧
    decEf4 ((c &&& 0xE7#8) ||| 0x1C#8) = false ∧ decMp ((c &&& 0xE7#8) ||| 0x1C#8) = decMp c ∧
    decStb ((c &&& 0xE7#8) ||| 0x1C#8) = decStb c ∧ decHi ((c &&& 0xE7#8) ||| 0x1C#8) = decHi c := by decide

/-- The fields of the byte LOAD_MONITOR leaves. -/
theorem fields_after_loadMonitor : ∀ c : Byte, modeOf ((c &&& 0xE6#8) ||| 0x14#8) = .reset ∧
    decMp ((c &&& 0xE6#8) ||| 0x14#8) = false ∧ decEf4 ((c &&& 0xE6#8) ||| 0x14#8) = false ∧
    decStb ((c &&& 0xE6#8) ||| 0x14#8) = decStb c ∧ decHi ((c &&& 0xE6#8) ||| 0x14#8) = decHi c := by decide

/-- A command that ends well shows the mirrors of its bus and the record, to which the response adds no write and no
hold. -/
theorem answered_counts {s : State} {b : Bus} {w h : Nat} (g : Grew w h (busOf s) b) (hd : Option ImageId) (e : Env)
    (st : BitVec 4) (val : Byte) :
    ∃ es, (answered { withBus s b with handle := hd } e st val).trace = s.trace ++ es ∧ Counts w h es :=
  g.trans (grew_note (e := .resp ⟨st, val⟩) ⟨rfl, rfl, rfl⟩ b)

/-- Settles O25: the end states are those of the steps, and the counts add up over them. -/
theorem fixedSequencesEndStatesAndCounts : Obligations.FixedSequencesEndStatesAndCounts := by
  intro s hr n
  refine ⟨?runMonitor, ?loadMonitor⟩
  case runMonitor =>
    obtain ⟨e, -, hx⟩ := runMonitorRunsItsTenSteps s hr
    have grew := grew_runMonitor (busOf s)
    have data := Bus.runMonitor_data (busOf s)
    have ctl := Bus.runMonitor_ctl (busOf s)
    generalize (busOf s).runMonitor = b at hx grew data ctl
    obtain ⟨es, trace, counts⟩ := answered_counts grew s.handle e 0 0x00#8
    obtain ⟨mode, ef4, mp, stb, hi⟩ := fields_after_runMonitor s.ctl
    rw [← show b.ctl = (s.ctl &&& 0xE7#8) ||| 0x1C#8 from ctl] at mode ef4 mp stb hi
    exact ⟨_, es, hx, trace, data, mode, ef4, mp, stb, hi, counts.writes, counts.holds, counts.time⟩
  case loadMonitor =>
    obtain ⟨e, -, hx⟩ := loadMonitorRunsItsNineteenSteps s hr
    have grew := grew_loadMonitor s.images (busOf s) (n := n) rfl
    have data := Bus.loadMonitor_data s.images (busOf s)
    have ctl := Bus.loadMonitor_ctl s.images (busOf s)
    generalize (busOf s).loadMonitor s.images = b at hx grew data ctl
    obtain ⟨es, trace, counts⟩ := answered_counts grew none e 0 0x00#8
    obtain ⟨mode, mp, ef4, stb, hi⟩ := fields_after_loadMonitor s.ctl
    rw [← show b.ctl = (s.ctl &&& 0xE6#8) ||| 0x14#8 from ctl] at mode mp ef4 stb hi
    exact ⟨_, es, hx, trace, data, mode, mp, ef4, stb, hi, counts.writes, counts.holds, counts.time⟩

end Sys2Proof.Safety
end

section
/-! PROOFS. Composites that a failure stops (rules R111 to R113, R163 to R165, R168): with nothing interleaving, the
actions before the failure have their effect on the bus, and those after it have none. -/

namespace Sys2Proof.Safety

open Sys2Proof.Machine

/-! Actions whose answers are no failure. -/

/-- The environment's answer to an action is no failure. -/
def Succeeds (e : Env) : Action → Prop
  | .setField _ _ | .setData _ => e.pio.headD .ok = .ok
  | .imgOpen _ | .imgNext _ _ => e.img.headD .ok = .ok
  | .holdBegin | .holdEnd => True

/-- The environment with that answer used up. -/
def envAfter (e : Env) : Action → Env
  | .setField _ _ | .setData _ => { e with pio := e.pio.tail }
  | .imgOpen _ | .imgNext _ _ => { e with img := e.img.tail }
  | .holdBegin | .holdEnd => e

theorem envAfter_sched (e : Env) (a : Action) : (envAfter e a).sched = e.sched := by cases a <;> rfl

/-- No action of a list fails. -/
def AllSucceed : List Micro → Env → Prop
  | [], _ => True
  | m :: ms, e => Succeeds e m.act ∧ AllSucceed ms (envAfter e m.act)

/-- The environment after these actions. -/
def envAfterAll (ms : List Micro) (e : Env) : Env := ms.foldl (fun e m => envAfter e m.act) e

theorem perform_succeeds {s : State} (hd : s.cfg = Params.decided) (b : Bus) {e : Env} (h : Option ImageId) {m : Micro}
    (hs : Succeeds e m.act) :
    m.act.perform (running s b e m.pos h) = running s (actBus b m) (envAfter e m.act) m.pos (actHandle h m) := by
  obtain ⟨pc, act⟩ := m
  cases act with
  | setField mask bits =>
    have hc : (running s b e pc h).cfg = Params.decided := hd
    have hp : (running s b e pc h).pioReply = .ok := hs
    simp only [Action.perform, setField, setFieldAtomic, readOld, hc, Params.decided, if_true, memWrite, hp]
    rfl
  | setData v =>
    have hp : (running s b e pc h).pioReply = .ok := hs
    simp only [Action.perform, writeData, memWrite, hp]
    rfl
  | holdBegin => rfl
  | holdEnd => rfl
  | imgOpen k =>
    have hi : (running s b e pc h).imgReply = .ok := hs
    simp only [Action.perform, openImage, hi]
    rfl
  | imgNext k x =>
    have hi : (running s b e pc h).imgReply = .ok := hs
    simp only [Action.perform, nextImageByte, hi]
    cases x <;> rfl

/-- With no slot to come, SEQ goes from each action to the next. -/
theorem interleave_nil {s : State} (hs : s.env.sched = []) : interleave s = s := by simp [interleave, hs]

theorem foldl_seqStep_succeeds {s : State} (hd : s.cfg = Params.decided) {ms : List Micro} (b : Bus) {e : Env}
    (hq : e.sched = []) (hs : AllSucceed ms e) (pc : SeqPc) (h : Option ImageId) : ∃ pc',
      ms.foldl seqStep (running s b e pc h) =
        running s (ms.foldl actBus b) (envAfterAll ms e) pc' (ms.foldl actHandle h) := by
  induction ms generalizing b e pc h with
  | nil => exact ⟨pc, rfl⟩
  | cons m ms ih =>
    obtain ⟨hm, hms⟩ := hs
    obtain ⟨pc', rest⟩ := ih (actBus b m) ((envAfter_sched e m.act).trans hq) hms m.pos (actHandle h m)
    refine ⟨pc', ?_⟩
    have point : interleave ((running s b e pc h).setSeqPc m.pos) = running s b e m.pos h := interleave_nil hq
    rw [List.foldl_cons, seqStep_go rfl point rfl, perform_succeeds hd b h hm, rest]
    rfl

theorem envAfterAll_sched (ms : List Micro) (e : Env) : (envAfterAll ms e).sched = e.sched := by
  induction ms generalizing e with
  | nil => rfl
  | cons m ms ih => exact (ih _).trans (envAfter_sched e m.act)

/-- A command that an action ends with a fault: the actions before it have their effect, those after it have none. -/
theorem command_stops {s u : State} (hd : s.cfg = Params.decided) (hq : s.env.sched = []) {ms done rest : List Micro}
    {pos : SeqPc} {act : Action} (split : ms = done ++ ⟨pos, act⟩ :: rest) (hs : AllSucceed done s.env)
    (hact : act.perform (running s (done.foldl actBus (busOf s)) (envAfterAll done s.env) pos
      (done.foldl actHandle s.handle)) = u) (hu : u.run = .faulted) (val : State → Byte) :
    command ms val s = u := by
  obtain ⟨pc, front⟩ := foldl_seqStep_succeeds hd (busOf s) hq hs s.seqPc s.handle
  have start : s.setRun .busy = running s (busOf s) s.env s.seqPc s.handle := rfl
  have point : interleave ((running s (done.foldl actBus (busOf s)) (envAfterAll done s.env) pc
      (done.foldl actHandle s.handle)).setSeqPc pos) = running s (done.foldl actBus (busOf s))
        (envAfterAll done s.env) pos (done.foldl actHandle s.handle) :=
    interleave_nil ((envAfterAll_sched done s.env).trans hq)
  have ended : u.run ≠ .busy := by simp [hu]
  have stop : ms.foldl seqStep (s.setRun .busy) = u := by
    rw [split, List.foldl_append, List.foldl_cons, start, front, seqStep_go rfl point rfl, hact,
      foldl_seqStep_over rest ended]
  rw [command, seqRun, stop, whileBusy_done ended, whileBusy_done ended]

/-! The failure. -/

/-- `s` with bus `b`, and the command in progress ended by a fault (R168). -/
def stopped (s : State) (b : Bus) (e : Env) (pc : SeqPc) (h : Option ImageId) (c : Cause) : State :=
  { withBus s (b.note (.resp ⟨c.code, 0x00#8⟩)) with
    run := .faulted, cause := c, loop := .exitedFailure, seqPc := pc, resp := some ⟨c.code, 0x00#8⟩
    handle := h, env := e }

section
variable {s : State} {b : Bus} {e : Env} {pc : SeqPc} {h : Option ImageId}

/-- A failed write of port B leaves the mirror (R165). -/
theorem perform_setField_fails {left : Byte} {rest : List PioReply} (hd : s.cfg = Params.decided)
    (hf : e.pio = .fail left :: rest) (mask bits : Byte) :
    (Action.setField mask bits).perform (running s b e pc h) =
      stopped s ({ b with portB := left }.note (.writeFail .seq .portB (maskedByte b.ctl mask bits)))
        { e with pio := rest } pc h (.portIOError .b .write) := by
  have hc : (running s b e pc h).cfg = Params.decided := hd
  have hp : (running s b e pc h).pioReply = .fail left := by simp [State.pioReply, running, hf]
  simp only [Action.perform, setField, setFieldAtomic, readOld, hc, Params.decided, if_true, memWrite, hp]
  simp [raise, running, stopped, State.popPio, State.log, State.setReg, Periph.set, withBus, Bus.note, hf, accessFault]

theorem perform_imgOpen_fails {rest : List ImgReply} (hf : e.img = .fail :: rest) (k : ImageId) :
    (Action.imgOpen k).perform (running s b e pc h) =
      stopped s (b.note (.imgOpenFail k)) { e with img := rest } pc h (.imageNotFound k) := by
  have hi : (running s b e pc h).imgReply = .fail := by simp [State.imgReply, running, hf]
  simp only [Action.perform, openImage, hi]
  simp [raise, running, stopped, State.popImg, State.log, withBus, Bus.note, hf]

theorem perform_imgNext_fails {rest : List ImgReply} (hf : e.img = .fail :: rest) (k : ImageId) (x : Option Byte) :
    (Action.imgNext k x).perform (running s b e pc h) =
      stopped s (b.note (.imgReadFail k)) { e with img := rest } pc h (.imageReadError k) := by
  have hi : (running s b e pc h).imgReply = .fail := by simp [State.imgReply, running, hf]
  simp only [Action.perform, nextImageByte, hi]
  simp [raise, running, stopped, State.popImg, State.log, withBus, Bus.note, hf]

end

/-- Settles O45: the assert and the hold have had their effect, and the deassert stops the command. -/
theorem pulseFailingAtStepThreeStaysAsserted : Obligations.PulseFailingAtStepThreeStaysAsserted := by
  intro s left rest hi hd hp hq
  have first : AllSucceed ((pulseMicros [] 0).take 3) s.env := ⟨by simp [Succeeds, hp], trivial, trivial, trivial⟩
  have env : envAfterAll ((pulseMicros [] 0).take 3) s.env = { s.env with pio := .fail left :: rest } := by
    simp [envAfterAll, pulseMicros, envAfter, hp]
  have split : pulseMicros [] 0 = (pulseMicros [] 0).take 3 ++
      ⟨⟨[⟨.pulse, 3⟩], 0⟩, .setField Config.maskEf4 (ef4Bits false)⟩ :: [] := rfl
  have stops := command_stops hd hq split first (perform_setField_fails hd (by rw [env]) _ _) rfl noValue
  refine (whenIdle_idle hi pulseCommand).trans (congrArg _ (stops.trans ?_))
  simp [stopped, withBus, busOf, pulseMicros, actBus, actHandle, Bus.putB, Bus.note, masked_ef4, and_or_ef4,
    envAfterAll, envAfter, hp, hq, Config.tPulseMs, Cause.code]

/-! Images that fail after some answers. -/

/-- An operation on an image. -/
def isImageOp : Action → Bool
  | .imgOpen _ | .imgNext _ _ => true
  | .setField _ _ | .setData _ | .holdBegin | .holdEnd => false

/-- The operations on images among some actions. -/
def imageOps (ms : List Micro) : Nat := (ms.filter fun m => isImageOp m.act).length

theorem imageOps_append (as bs : List Micro) : imageOps (as ++ bs) = imageOps as + imageOps bs := by
  rw [imageOps, List.filter_append, List.length_append]
  rfl

/-- An action succeeds when its image, if it is an operation on one, answers; the image answers it alone. -/
theorem succeeds_of_answers {a : Action} {e : Env} {l : List ImgReply} (hp : ∀ r ∈ e.pio, r = .ok)
    (hi : e.img = if isImageOp a then .ok :: l else l) :
    Succeeds e a ∧ (∀ r ∈ (envAfter e a).pio, r = .ok) ∧ (envAfter e a).img = l := by
  have port : e.pio.headD .ok = .ok := by
    cases h : e.pio with
    | nil => rfl
    | cons r l => exact hp r (by simp [h])
  have tail : ∀ r ∈ e.pio.tail, r = .ok := fun r hr => hp r (List.mem_of_mem_tail hr)
  cases a with
  | setField | setData => exact ⟨port, tail, hi⟩
  | holdBegin | holdEnd => exact ⟨trivial, hp, hi⟩
  | imgOpen | imgNext =>
    replace hi : e.img = .ok :: l := hi
    exact ⟨by simp [Succeeds, hi], hp, by simp [envAfter, hi]⟩

/-- As many answers of the images as there are operations on them are enough. -/
theorem allSucceed_of_answers {ms : List Micro} {e : Env} {rest : List ImgReply} (hp : ∀ r ∈ e.pio, r = .ok)
    (hi : e.img = List.replicate (imageOps ms) .ok ++ rest) :
    AllSucceed ms e ∧ (envAfterAll ms e).img = rest := by
  induction ms generalizing e with
  | nil => exact ⟨trivial, hi⟩
  | cons m ms ih =>
    have hm : e.img = if isImageOp m.act then .ok :: (List.replicate (imageOps ms) .ok ++ rest)
        else List.replicate (imageOps ms) .ok ++ rest := by
      rw [hi]
      cases h : isImageOp m.act <;> simp [imageOps, h, List.replicate_succ]
    obtain ⟨first, hp', hi'⟩ := succeeds_of_answers hp hm
    obtain ⟨others, left⟩ := ih hp' hi'
    exact ⟨⟨first, others⟩, left⟩

/-- LOAD_PROGRAM's loop comes to the read after the bytes `done` with these put on port A and pulsed. -/
theorem loadLoop_split (outer : List Frame) (img : ImageId) (k : Nat) (done left : List Byte) :
    ∃ front x rest, loadLoopMicros outer img k (done ++ left) =
        front ++ ⟨⟨outer ++ [⟨.loadProgram, 2⟩], k + done.length⟩, .imgNext img x⟩ :: rest ∧
      (∀ b, front.foldl actBus b = done.foldl (Bus.loadByte img) b) ∧
      (∀ h, front.foldl actHandle h = h) ∧ imageOps front = done.length := by
  induction done generalizing k with
  | nil => cases left with
    | nil => exact ⟨[], _, _, rfl, fun _ => rfl, fun _ => rfl, rfl⟩
    | cons x xs => exact ⟨[], _, _, rfl, fun _ => rfl, fun _ => rfl, rfl⟩
  | cons x xs ih =>
    obtain ⟨front, y, rest, split, bus, handle, ops⟩ := ih (k + 1)
    refine ⟨byteMicros outer img k x ++ front, y, rest, ?split, fun b => ?bus, handle, ?ops⟩
    case split =>
      rw [List.cons_append, loadLoopMicros_cons, split, List.append_assoc, List.length_cons, Nat.add_assoc,
        Nat.add_comm 1]
    case bus => rw [List.foldl_append, foldl_actBus_byte, bus, List.foldl_cons]
    case ops =>
      rw [imageOps_append, ops, List.length_cons, Nat.add_comm]
      rfl

/-- A stream that fails after the bytes `done` stops LOAD_PROGRAM there. -/
theorem loadProgram_fails_after {s : State} {done left : List Byte} {rest : List ImgReply} (hd : s.cfg = Params.decided)
    (hp : ∀ r ∈ s.env.pio, r = .ok) (hq : s.env.sched = [])
    (hi : s.env.img = .ok :: (List.replicate done.length .ok ++ .fail :: rest)) {img : ImageId}
    (hb : s.images.bytes img = done ++ left) : ∃ e,
      loadProgramCommand img s =
        stopped s ((done.foldl (Bus.loadByte img) ((busOf s).note (.imgOpen img))).note (.imgReadFail img)) e
          ⟨[⟨.loadProgram, 2⟩], done.length⟩ (some img) (.imageReadError img) := by
  obtain ⟨front, x, others, split, bus, handle, ops⟩ := loadLoop_split [] img 0 done left
  rw [List.nil_append, Nat.zero_add] at split
  let opened : List Micro := ⟨⟨[⟨.loadProgram, 1⟩], 0⟩, .imgOpen img⟩ :: front
  have ms : loadProgramMicros [] img (s.images.bytes img) =
      opened ++ ⟨⟨[⟨.loadProgram, 2⟩], done.length⟩, .imgNext img x⟩ :: others := by
    rw [hb, loadProgramMicros, split]
    rfl
  have answers : imageOps opened = done.length + 1 := congrArg (· + 1) ops
  obtain ⟨succeed, fails⟩ := allSucceed_of_answers (ms := opened) hp (by rw [answers, hi]; rfl)
  have stops := command_stops hd hq ms succeed (perform_imgNext_fails fails img x) rfl noValue
  rw [List.foldl_cons, bus, List.foldl_cons, handle] at stops
  exact ⟨_, stops⟩

/-- Settles O47: the loop comes to the read that fails with the bytes before it sent. -/
theorem brokenImageLeavesTheBytesApplied : Obligations.BrokenImageLeavesTheBytesApplied := by
  intro s done left rest hi hd hp himg hq p hpair hb
  have runs : exec p.1 s = .next (loadProgramCommand p.2 s) := by
    simp only [List.mem_cons, List.not_mem_nil, or_false] at hpair
    obtain rfl | rfl | rfl := hpair <;> exact whenIdle_idle hi _
  obtain ⟨e, stops⟩ := loadProgram_fails_after hd hp hq himg hb
  exact ⟨e, runs.trans (congrArg _ stops)⟩

/-! LOAD_MONITOR without its image 1. -/

theorem fixedMicros_append (op : CompositeOp) (im : Images) (n : Nat) (as bs : List FixedStep) :
    fixedMicros op im n (as ++ bs) = fixedMicros op im n as ++ fixedMicros op im (n + as.length) bs := by
  induction as generalizing n with
  | nil => rfl
  | cons a as ih =>
    rw [List.cons_append, fixedMicros, fixedMicros, ih, List.append_assoc, List.length_cons, Nat.add_right_comm n,
      Nat.add_assoc]

theorem imageOps_load (outer : List Frame) (img : ImageId) (bytes : List Byte) :
    imageOps (loadProgramMicros outer img bytes) = bytes.length + 2 := by
  have loop (k : Nat) : imageOps (loadLoopMicros outer img k bytes) = bytes.length + 1 := by
    induction bytes generalizing k with
    | nil => rfl
    | cons x xs ih => exact congrArg (· + 1) (ih (k + 1))
  exact congrArg (· + 1) (loop 0)

/-- LOAD_MONITOR before its step 11, and the open of image 1 there. -/
theorem loadMonitorMicros_split (im : Images) : ∃ rest, fixedMicros .loadMonitor im 1 loadMonitorSteps =
    fixedMicros .loadMonitor im 1 (loadMonitorSteps.take 10) ++
      ⟨⟨[⟨.loadMonitor, 11⟩, ⟨.loadProgram, 1⟩], 0⟩, .imgOpen .monitor⟩ :: rest :=
  ⟨_, fixedMicros_append .loadMonitor im 1 (loadMonitorSteps.take 10) (loadMonitorSteps.drop 10)⟩

/-- Of the first ten steps, one loads an image. -/
theorem imageOps_ten_steps (im : Images) :
    imageOps (fixedMicros .loadMonitor im 1 (loadMonitorSteps.take 10)) = im.bootstrap.length + 2 := by
  have load := imageOps_load [⟨.loadMonitor, 4⟩] .bootstrap im.bootstrap
  have front : fixedMicros .loadMonitor im 1 (loadMonitorSteps.take 10) =
      fixedMicros .loadMonitor im 1 (loadMonitorSteps.take 3) ++
        (loadProgramMicros [⟨.loadMonitor, 4⟩] .bootstrap im.bootstrap ++
          fixedMicros .loadMonitor im 5 ((loadMonitorSteps.take 10).drop 4)) := rfl
  have none3 : imageOps (fixedMicros .loadMonitor im 1 (loadMonitorSteps.take 3)) = 0 := rfl
  have none6 : imageOps (fixedMicros .loadMonitor im 5 ((loadMonitorSteps.take 10).drop 4)) = 0 := rfl
  rw [front, imageOps_append, imageOps_append, load, none3, none6, Nat.zero_add, Nat.add_zero]

theorem grew_ten_steps (im : Images) (b : Bus) :
    ∃ h, Grew (11 + 3 * im.bootstrap.length) h b ((loadMonitorSteps.take 10).foldl (stepBus im) b) := by
  have writes : ((loadMonitorSteps.take 10).map (stepWrites im)).sum = 11 + 3 * im.bootstrap.length := by
    simp only [loadMonitorSteps, List.take_succ_cons, List.take_zero, List.map_cons, List.map_nil, List.sum_cons,
      List.sum_nil, stepWrites, Images.bytes]
    ring
  have g := grew_steps im (loadMonitorSteps.take 10) b
  rw [writes] at g
  exact ⟨_, g⟩

/-- The fields of the byte left there. -/
theorem fields_after_ten_steps : ∀ c : Byte,
    modeOf ((c &&& 0xE6#8) ||| 0x1C#8) = .run ∧ decMp ((c &&& 0xE6#8) ||| 0x1C#8) = false := by decide

/-- Settles O48: ten steps have had their effect when the open of image 1 fails. -/
theorem missingMonitorImageStopsLoadMonitor : Obligations.MissingMonitorImageStopsLoadMonitor := by
  intro s rest hi hd hp hq himg
  obtain ⟨others, split⟩ := loadMonitorMicros_split s.images
  obtain ⟨succeed, fails⟩ := allSucceed_of_answers hp (himg.trans (by rw [imageOps_ten_steps]))
  have stops := command_stops hd hq split succeed (perform_imgOpen_fails fails .monitor) rfl noValue
  have data : ((loadMonitorSteps.take 10).foldl (stepBus s.images) (busOf s)).data = 0x00#8 := foldl_stepBus_data ..
  have portB : ((loadMonitorSteps.take 10).foldl (stepBus s.images) (busOf s)).portB =
      ((loadMonitorSteps.take 10).foldl (stepBus s.images) (busOf s)).ctl := rfl
  have ctl := ctl_after_ten_steps s.images (busOf s)
  obtain ⟨h, grew⟩ := grew_ten_steps s.images (busOf s)
  rw [foldl_actBus_fixed] at stops
  generalize (loadMonitorSteps.take 10).foldl (stepBus s.images) (busOf s) = b at stops data portB ctl grew
  obtain ⟨mode, mp⟩ := fields_after_ten_steps s.ctl
  rw [← show b.ctl = (s.ctl &&& 0xE6#8) ||| 0x1C#8 from ctl] at mode mp
  obtain ⟨es, trace, counts⟩ := (grew.trans (grew_note (e := .imgOpenFail .monitor) ⟨rfl, rfl, rfl⟩ b)).trans
    (grew_note (e := .resp ⟨3, 0x00#8⟩) ⟨rfl, rfl, rfl⟩ _)
  exact ⟨_, es, (whenIdle_idle hi loadMonitorCommand).trans (congrArg _ stops), trace, rfl, rfl, rfl, rfl, data, mode,
    mp, portB, rfl, counts.writes⟩

end Sys2Proof.Safety
end

section
/-! PROOFS. A composite that ends well, in any environment (rules R112, R115, R146): REL only deasserts lines, and the
last setter of `ef4_n` in each of them deasserts it. -/

namespace Sys2Proof.Safety

open Sys2Proof.Machine

/-! The byte. -/

/-- `c` has bits 7:5 of `c0` and asserts `stb_n` only if `c0` does; with `off`, it does not assert `ef4_n`. -/
structure OuterKept (c0 : Byte) (off : Bool) (c : Byte) : Prop where
  hi : decHi c = decHi c0
  stb : decStb c = true → decStb c0 = true
  ef4 : off = true → decEf4 c = false

theorem OuterKept.refl (c : Byte) : OuterKept c false c := ⟨rfl, id, nofun⟩

/-- A line deasserted (R146). -/
theorem line_bits : ∀ (c : Byte) (l : Line), decHi (c ||| l.mask) = decHi c ∧
    (decStb (c ||| l.mask) = true → decStb c = true) ∧ (decEf4 c = false → decEf4 (c ||| l.mask) = false) := by
  intro c l
  cases l <;> revert c <;> decide

theorem OuterKept.line {c0 c : Byte} {off : Bool} (h : OuterKept c0 off c) (l : Line) :
    OuterKept c0 off (c ||| l.mask) := by
  obtain ⟨hi, stb, ef4⟩ := line_bits c l
  exact ⟨hi.trans h.hi, h.stb ∘ stb, ef4 ∘ h.ef4⟩

/-- A setter of a field that holds neither bits 7:5 nor `stb_n`. -/
structure Inner (mask bits : Byte) : Prop where
  keeps : ~~~mask &&& 0xE2#8 = 0xE2#8
  inside : bits &&& ~~~mask = 0x00#8

/-- Whether `ef4_n` is known to be deasserted after a setter. -/
def offAfter (off : Bool) (mask bits : Byte) : Bool := if mask.getLsbD 2 then bits.getLsbD 2 else off

/-- Bits 7:5 and `stb_n` are the bits of 0xE2. -/
theorem outer_bits : ∀ c : Byte, decHi (c &&& 0xE2#8) = decHi c ∧ decStb (c &&& 0xE2#8) = decStb c := by decide

theorem OuterKept.setter {c0 c mask bits : Byte} {off : Bool} (h : OuterKept c0 off c) (hf : Inner mask bits) :
    OuterKept c0 (offAfter off mask bits) (maskedByte c mask bits) := by
  have outer : maskedByte c mask bits &&& 0xE2#8 = c &&& 0xE2#8 := by
    rw [← hf.keeps, ← BitVec.and_assoc, masked_keeps c mask bits hf.inside, BitVec.and_assoc]
  obtain ⟨hi, stb⟩ := outer_bits (maskedByte c mask bits)
  obtain ⟨hi', stb'⟩ := outer_bits c
  rw [outer] at hi stb
  refine ⟨by rw [← hi, hi', h.hi], fun hs => h.stb (by rw [← stb', stb, hs]), fun ho => ?ef4⟩
  rw [decEf4, Config.bitEf4N, getLsbD_maskedByte _ _ _ (by decide)]
  cases hm : mask.getLsbD 2 with
  | true =>
    rw [offAfter, if_pos hm] at ho
    rw [ho, Bool.or_true]
    rfl
  | false =>
    rw [offAfter, if_neg (by rw [hm]; decide)] at ho
    have bit : c.getLsbD 2 = true := by simpa [decEf4, Config.bitEf4N] using h.ef4 ho
    rw [bit]
    rfl

/-! Inside the command. -/

/-- Inside a command that began with the mirror `c0`: while it is in progress its mirror has kept `c0`'s bits. -/
structure Inside (c0 : Byte) (off : Bool) (s : State) : Prop where
  decided : s.cfg = Params.decided
  notIdle : s.run ≠ .idle
  kept : s.run = .busy → OuterKept c0 off s.ctl

section
variable {c0 : Byte} {off : Bool} {s t : State}

/-- An update of anything else. -/
theorem Inside.sees (h : Inside c0 off s) (hc : t.cfg = s.cfg) (hr : t.run = s.run) (hl : t.ctl = s.ctl) :
    Inside c0 off t :=
  ⟨hc.trans h.decided, hr ▸ h.notIdle, fun hb => hl ▸ h.kept (hr ▸ hb)⟩

/-- Of a session that has ended nothing is asked. -/
theorem inside_of_ended {off' : Bool} (h : Inside c0 off s) (hc : t.cfg = s.cfg)
    (hr : t.run = .faulted ∨ t.run = .unattached) : Inside c0 off' t :=
  ⟨hc.trans h.decided, by rintro e; simp [e] at hr, fun e => by simp [e] at hr⟩

/-- A setter of either agent takes the mirror's byte to another, or ends the session. -/
theorem Inside.setField {off' : Bool} (h : Inside c0 off s) (ag : Agent) {mask bits : Byte}
    (hset : OuterKept c0 off s.ctl → OuterKept c0 off' (maskedByte s.ctl mask bits)) :
    Inside c0 off' (setFieldAtomic ag mask bits s) := by
  have mirror : setFieldAtomic ag mask bits s =
      memWrite ag .portB (maskedByte s.ctl mask bits) (State.setCtl (maskedByte s.ctl mask bits)) s := by
    rw [setFieldAtomic, readOld, h.decided]
    rfl
  rw [mirror]
  obtain ⟨-, e⟩ | ⟨left, -, e⟩ := memWrite_cases ag .portB (maskedByte s.ctl mask bits)
    (State.setCtl (maskedByte s.ctl mask bits)) s
  · rw [e]; exact ⟨h.decided, h.notIdle, fun hb => hset (h.kept hb)⟩
  · rw [e]; exact inside_of_ended h rfl (.inl rfl)

theorem Inside.relNext (h : Inside c0 off s) (l : Line) : Inside c0 off (relNext l s) := by
  unfold Machine.relNext
  split
  · exact h
  · cases l <;> exact h.sees rfl rfl rfl

theorem Inside.relAct (h : Inside c0 off s) (p : RelPos) : Inside c0 off (relAct p s) := by
  rw [Machine.relAct, if_pos (by rw [h.decided]; rfl)]
  refine Inside.relNext (h.setField .rel fun k => ?_) p.line
  rw [masked_line]
  exact k.line p.line

theorem Inside.relStep (h : Inside c0 off s) : Inside c0 off (relStep s) := by
  unfold Machine.relStep
  split
  · split
    · exact h.relAct _
    · next n _ _ =>
      exact Inside.relAct (s := (s.setRelPending n).setRel (some ⟨.ef4, .start⟩)) (h.sees rfl rfl rfl) _
    · exact h
  · exact h

theorem Inside.relSteps (n : Nat) (h : Inside c0 off s) : Inside c0 off (relSteps n s) := by
  induction n generalizing s with
  | zero => exact h
  | succ n ih => exact ih h.relStep

theorem Inside.deliver (h : Inside c0 off s) (a n : Nat) : Inside c0 off (deliver a n s) :=
  Inside.relSteps n (s := s.setRelPending _) (h.sees rfl rfl rfl)

theorem Inside.interleave (h : Inside c0 off s) : Inside c0 off (interleave s) := by
  have delivered (l : List Slot) (a n : Nat) : Inside c0 off (Machine.deliver a n (s.setSched l)) :=
    Inside.deliver (s := s.setSched l) (h.sees rfl rfl rfl) a n
  obtain ⟨-, e⟩ | ⟨sl, rest, -, -, e⟩ | ⟨sl, rest, -, -, e⟩ := interleave_cases s
  · rw [e]; exact h
  · rw [e]; exact whileLive_keeps (fun _ h => inside_of_ended h rfl (.inr rfl)) (delivered _ _ _)
  · rw [e]; exact delivered _ _ _

/-! The sequencer. -/

/-- An action that writes, of port B, at most a field that holds neither bits 7:5 nor `stb_n`. -/
def InnerAction : Action → Prop
  | .setField mask bits => Inner mask bits
  | .setData _ | .holdBegin | .holdEnd | .imgOpen _ | .imgNext _ _ => True

/-- Every action of a list is such. -/
def InnerMicros (ms : List Micro) : Prop := ∀ m ∈ ms, InnerAction m.act

/-- Whether `ef4_n` is known to be deasserted after an action. -/
def offAction (off : Bool) : Action → Bool
  | .setField mask bits => offAfter off mask bits
  | .setData _ | .holdBegin | .holdEnd | .imgOpen _ | .imgNext _ _ => off

/-- The same after several. -/
def offAll (off : Bool) (ms : List Micro) : Bool := ms.foldl (fun off m => offAction off m.act) off

theorem Inside.perform (h : Inside c0 off s) {a : Action} (ha : InnerAction a) :
    Inside c0 (offAction off a) (a.perform s) := by
  cases a with
  | setField mask bits =>
    have atomic : (Action.setField mask bits).perform s = setFieldAtomic .seq mask bits s :=
      if_pos (by rw [h.decided]; rfl)
    rw [atomic]
    exact h.setField .seq fun k => k.setter ha
  | setData b =>
    change Inside c0 off (memWrite .seq .portA b (State.setData b) s)
    obtain ⟨-, e⟩ | ⟨left, -, e⟩ := memWrite_cases .seq .portA b (State.setData b) s
    · rw [e]; exact h.sees rfl rfl rfl
    · rw [e]; exact inside_of_ended h rfl (.inl rfl)
  | holdBegin => exact h.sees rfl rfl rfl
  | holdEnd => exact h.sees rfl rfl rfl
  | imgOpen k =>
    change Inside c0 off (openImage k s)
    unfold openImage
    split
    · exact h.sees rfl rfl rfl
    · exact inside_of_ended h rfl (.inl rfl)
  | imgNext k x =>
    change Inside c0 off (nextImageByte k x s)
    unfold nextImageByte
    split
    · exact inside_of_ended h rfl (.inl rfl)
    · cases x <;> exact h.sees rfl rfl rfl

/-- After the end of a command nothing is asked of `ef4_n`. -/
theorem Inside.ended (h : Inside c0 off s) (hb : s.run ≠ .busy) (off' : Bool) : Inside c0 off' s :=
  ⟨h.decided, h.notIdle, fun e => absurd e hb⟩

theorem Inside.seqStep (h : Inside c0 off s) {m : Micro} (hm : InnerAction m.act) :
    Inside c0 (offAction off m.act) (seqStep s m) := by
  have point : Inside c0 off (Machine.interleave (s.setSeqPc m.pos)) :=
    Inside.interleave (s := s.setSeqPc m.pos) (h.sees rfl rfl rfl)
  by_cases hb : s.run = .busy
  · by_cases hb' : (Machine.interleave (s.setSeqPc m.pos)).run = .busy
    · rw [seqStep_go hb rfl hb']
      exact point.perform hm
    · rw [Machine.seqStep, whileBusy_busy hb, whileBusy_done hb']
      exact point.ended hb' _
  · rw [Machine.seqStep, whileBusy_done hb]
    exact h.ended hb _

theorem Inside.foldl_seqStep (h : Inside c0 off s) {ms : List Micro} (hms : InnerMicros ms) :
    Inside c0 (offAll off ms) (ms.foldl Machine.seqStep s) := by
  induction ms generalizing off s with
  | nil => exact h
  | cons m ms ih =>
    obtain ⟨hm, hms⟩ := List.forall_mem_cons.1 hms
    exact ih (h.seqStep hm) hms

/-- A command of such actions that ends in IDLE has kept the bits. -/
theorem outerKept_command {ms : List Micro} (hd : s.cfg = Params.decided) (hms : InnerMicros ms)
    (val : State → Byte) (hi : (command ms val s).run = .idle) :
    OuterKept s.ctl (offAll false ms) (command ms val s).ctl := by
  have start : Inside s.ctl false (s.setRun .busy) := ⟨hd, by simp, fun _ => .refl s.ctl⟩
  have done : Inside s.ctl (offAll false ms) (seqRun ms (s.setRun .busy)) :=
    whileBusy_keeps (fun _ h => h.interleave) (start.foldl_seqStep hms)
  by_cases hb : (seqRun ms (s.setRun .busy)).run = .busy
  · rw [command, whileBusy_busy hb]
    exact done.kept hb
  · rw [command, whileBusy_done hb] at hi
    exact absurd hi done.notIdle

end

/-! The composites. -/

theorem inner_mode (m : Mode) : Inner Config.maskMode m.code := by cases m <;> exact ⟨by decide, by decide⟩

theorem inner_mp (v : Bool) : Inner Config.maskMp (mpBits v) := by cases v <;> exact ⟨by decide, by decide⟩

theorem inner_ef4 (v : Bool) : Inner Config.maskEf4 (ef4Bits v) := by cases v <;> exact ⟨by decide, by decide⟩

theorem pulseMicros_inner (outer : List Frame) (k : Nat) : InnerMicros (pulseMicros outer k) := by
  simp only [InnerMicros, pulseMicros, List.forall_mem_cons, List.not_mem_nil, false_implies, implies_true, and_true]
  exact ⟨inner_ef4 true, trivial, trivial, inner_ef4 false⟩

theorem loadLoopMicros_inner (outer : List Frame) (img : ImageId) (k : Nat) (bytes : List Byte) :
    InnerMicros (loadLoopMicros outer img k bytes) := by
  induction bytes generalizing k with
  | nil => exact List.forall_mem_singleton.2 trivial
  | cons x xs ih =>
    refine List.forall_mem_cons.2 ⟨trivial, List.forall_mem_cons.2 ⟨trivial, ?_⟩⟩
    exact List.forall_mem_append.2 ⟨pulseMicros_inner _ _, ih (k + 1)⟩

theorem loadProgramMicros_inner (outer : List Frame) (img : ImageId) (bytes : List Byte) :
    InnerMicros (loadProgramMicros outer img bytes) :=
  List.forall_mem_cons.2 ⟨trivial, loadLoopMicros_inner _ _ _ _⟩

theorem fixedMicros_inner (op : CompositeOp) (im : Images) (n : Nat) (sts : List FixedStep) :
    InnerMicros (fixedMicros op im n sts) := by
  induction sts generalizing n with
  | nil => exact fun _ h => absurd h List.not_mem_nil
  | cons st sts ih =>
    refine List.forall_mem_append.2 ⟨?_, ih (n + 1)⟩
    cases st with
    | mode m => exact List.forall_mem_singleton.2 (inner_mode m)
    | mp v => exact List.forall_mem_singleton.2 (inner_mp v)
    | data x => exact List.forall_mem_singleton.2 trivial
    | pulse => exact pulseMicros_inner _ _
    | load img => exact loadProgramMicros_inner _ _ _

theorem offAll_append (off : Bool) (as bs : List Micro) : offAll off (as ++ bs) = offAll (offAll off as) bs :=
  List.foldl_append

/-- An image leaves `ef4_n` to its pulses, if it has a byte at all. -/
theorem offAll_loadLoop (off : Bool) (outer : List Frame) (img : ImageId) (k : Nat) (bytes : List Byte) :
    offAll off (loadLoopMicros outer img k bytes) = (off || !bytes.isEmpty) := by
  induction bytes generalizing off k with
  | nil => exact (Bool.or_false off).symm
  | cons x xs ih =>
    have byte : offAll off (byteMicros outer img k x) = true := rfl
    rw [loadLoopMicros_cons, offAll_append, byte, ih, Bool.true_or]
    exact (Bool.or_true off).symm

theorem offAll_load (off : Bool) (outer : List Frame) (img : ImageId) (bytes : List Byte) :
    offAll off (loadProgramMicros outer img bytes) = (off || !bytes.isEmpty) :=
  offAll_loadLoop ..

/-- Whether `ef4_n` is known to be deasserted after a step of a fixed sequence. -/
def offStep (im : Images) (off : Bool) : FixedStep → Bool
  | .mode _ | .mp _ | .data _ => off
  | .pulse => true
  | .load img => off || !(im.bytes img).isEmpty

theorem offAll_fixed (off : Bool) (op : CompositeOp) (im : Images) (n : Nat) (sts : List FixedStep) :
    offAll off (fixedMicros op im n sts) = sts.foldl (offStep im) off := by
  induction sts generalizing off n with
  | nil => rfl
  | cons st sts ih =>
    have step : offAll off (st.micros op im n) = offStep im off st := by
      cases st with
      | mode m => cases m <;> rfl
      | load img => exact offAll_load ..
      | mp | data | pulse => rfl
    rw [fixedMicros, offAll_append, step, ih, List.foldl_cons]

/-- A composite taken in IDLE that ends there: the bits its actions keep. -/
theorem composite_kept {ms : State → List Micro} {s t : State} (hd : s.cfg = Params.decided)
    (e : whenIdle (fun s => command (ms s) noValue s) s = .next t) (ht : t.run = .idle) (inner : InnerMicros (ms s)) :
    OuterKept s.ctl (offAll false (ms s)) t.ctl := by
  obtain ⟨-, rfl⟩ | ⟨hb, rfl⟩ := whenIdle_next e
  · exact outerKept_command hd inner noValue ht
  · simp [hb] at ht

theorem loadProgram_kept {s t : State} (hd : s.cfg = Params.decided) (img : ImageId)
    (e : whenIdle (loadProgramCommand img) s = .next t) (ht : t.run = .idle) (hne : s.images.bytes img ≠ []) :
    OuterKept s.ctl true t.ctl := by
  have kept := composite_kept (ms := fun s => loadProgramMicros [] img (s.images.bytes img)) hd e ht
    (loadProgramMicros_inner _ _ _)
  have pulsed : (false || !(s.images.bytes img).isEmpty) = true := by simpa using hne
  rwa [offAll_load, pulsed] at kept

theorem fixed_kept {s t : State} (hd : s.cfg = Params.decided) {op : CompositeOp} {sts : List FixedStep}
    (e : whenIdle (fun s => command (fixedMicros op s.images 1 sts) noValue s) s = .next t) (ht : t.run = .idle)
    (off : sts.foldl (offStep s.images) false = true) : OuterKept s.ctl true t.ctl := by
  have kept := composite_kept (ms := fun s => fixedMicros op s.images 1 sts) hd e ht (fixedMicros_inner _ _ _ _)
  rwa [offAll_fixed, off] at kept

/-- Settles O26: every setter of a composite and every step of REL keep the bits, and each composite has a pulse, after
which `ef4_n` is asserted in a later pulse at most, which deasserts it again. -/
theorem compositesEndWithEf4Deasserted : Obligations.CompositesEndWithEf4Deasserted := by
  intro i s t hd e ht hi
  have kept : OuterKept s.ctl true t.ctl := by
    obtain rfl | rfl | rfl | ⟨rfl, hne⟩ | ⟨rfl, hne⟩ | ⟨rfl, hne⟩ := hi
    · exact composite_kept (ms := fun _ => pulseMicros [] 0) hd e ht (pulseMicros_inner _ _)
    · exact fixed_kept (sts := runMonitorSteps) hd e ht rfl
    · exact fixed_kept (sts := loadMonitorSteps) hd e ht rfl
    · exact loadProgram_kept hd .bootstrap e ht hne
    · exact loadProgram_kept hd .monitor e ht hne
    · exact loadProgram_kept hd .bios e ht hne
  exact ⟨kept.ef4 rfl, kept.hi, kept.stb⟩

end Sys2Proof.Safety
end

section
/-! PROOFS. The interaction mode (rules R133, R150), and what a symbol that invokes no command adds to the record: the
points where REL steps, the getters of the status and the status itself make no access of SEQ's (rules R143, R145,
R148). -/

namespace Sys2Proof.Safety

open Sys2Proof.Machine

/-! The interaction mode. -/

theorem noKill_tail {e : Env} {sl : Slot} {rest : List Slot} (h : NoKill e) (hs : e.sched = sl :: rest) :
    NoKill { e with sched := rest } :=
  fun x hx => h x (hs ▸ List.mem_cons_of_mem sl hx)

theorem NoKill.kill_false {e : Env} {sl : Slot} {rest : List Slot} (h : NoKill e) (hs : e.sched = sl :: rest) :
    sl.kill = false :=
  h sl (hs ▸ List.mem_cons_self)

/-- With no kill to come, no update of an instruction changes `imode`: only a new session would. -/
theorem imode_closedData (m : IMode) : ClosedData fun t => t.imode = m ∧ NoKill t.env where
  popPio _ h := h
  log _ _ h := h
  setPortB _ _ h := h
  setCtl _ _ h := h
  setRel _ _ h := h
  setRelPending _ _ h := h
  raise _ _ _ h := h
  popSched _ _ _ hs h := ⟨h.1, noKill_tail h.2 hs⟩
  kill _ _ _ _ hs hk h _ _ := by simp [h.2.kill_false hs] at hk
  busy _ _ h := h
  pos _ _ _ _ h := h
  respond _ _ _ _ _ h := h
  setStatus _ _ h := h
  setPortA _ _ h := h
  setData _ _ h := h
  popImg _ h := h
  setHandle _ _ h := h

/-- Settles O29: quit ends the session alone, and every update of the others leaves `imode`. -/
theorem onlyToggleChangesTheInteractionMode : Obligations.OnlyToggleChangesTheInteractionMode := by
  intro i s t hk ht e
  have start : s.imode = s.imode ∧ NoKill s.env := ⟨rfl, hk⟩
  obtain rfl | hq := eq_or_ne i .quit
  · replace e : execQuit s = .next t := e
    exact (keeps_of_whenIdle (P := fun t => t.imode = s.imode ∧ NoKill t.env) start (fun _ => start) e).1
  · exact ((imode_closedData s.imode).exec hq ht start e).1

/-- Settles O28: TOGGLE is a symbol that replaces `imode`. -/
theorem toggleFlipsTheInteractionMode : Obligations.ToggleFlipsTheInteractionMode := by
  intro s hi hc
  obtain ⟨e, he, status⟩ := renderStatus_calm
    (s := { s with imode := if s.imode = .control then .keyboard else .control }) hi hc
  have flip : execToggle s =
      .next (renderStatus { s with imode := if s.imode = .control then .keyboard else .control }) := by
    rw [execToggle, symbol_idle hi]
    cases s.imode <;> rfl
  exact ⟨e, he, flip.trans (congrArg _ status)⟩

/-! A symbol that invokes no command. -/

/-- An access of port B by REL, or an output to the host. -/
inductive RelOrOutput : Event → Prop
  | read (v : Byte) : RelOrOutput (.read .rel .portB v)
  | write (v : Byte) : RelOrOutput (.write .rel .portB v)
  | readFail : RelOrOutput (.readFail .rel .portB)
  | writeFail (v : Byte) : RelOrOutput (.writeFail .rel .portB v)
  | resp (r : Resp) : RelOrOutput (.resp r)
  | status (v : StatusTuple) : RelOrOutput (.status v)

/-- From `s` to `t` SEQ has made no access: `data` and `imode` are as before, and no kill is to come. -/
structure SeqIdle (s t : State) : Prop where
  data : t.data = s.data
  imode : t.imode = s.imode
  noKill : NoKill t.env
  trace : ∃ es, t.trace = s.trace ++ es ∧ ∀ x ∈ es, RelOrOutput x

section
variable {s t u : State}

theorem SeqIdle.refl (hk : NoKill s.env) : SeqIdle s s := ⟨rfl, rfl, hk, [], by simp, by simp⟩

/-- An update of something else that records nothing. -/
theorem SeqIdle.silent (h : SeqIdle s t) (hd : u.data = t.data) (hm : u.imode = t.imode)
    (hs : u.env.sched = t.env.sched) (ht : u.trace = t.trace) : SeqIdle s u :=
  ⟨hd.trans h.data, hm.trans h.imode, fun x hx => h.noKill x (hs ▸ hx), ht ▸ h.trace⟩

/-- An update of something else that records one event. -/
theorem SeqIdle.event {x : Event} (h : SeqIdle s t) (hx : RelOrOutput x) (hd : u.data = t.data)
    (hm : u.imode = t.imode) (hs : u.env.sched = t.env.sched) (ht : u.trace = t.trace ++ [x]) : SeqIdle s u := by
  obtain ⟨es, e, hes⟩ := h.trace
  refine ⟨hd.trans h.data, hm.trans h.imode, fun x hx => h.noKill x (hs ▸ hx), es ++ [x], ?_, ?_⟩
  · rw [ht, e, List.append_assoc]
  · exact List.forall_mem_append.2 ⟨hes, List.forall_mem_singleton.2 hx⟩

theorem SeqIdle.raise (c : Cause) (h : SeqIdle s t) : SeqIdle s (raise c t) := by
  by_cases hb : t.run = .busy
  · exact h.event (.resp _) rfl rfl rfl ((raise_trace c t).trans (if_pos hb))
  · exact h.silent rfl rfl rfl ((raise_trace c t).trans (if_neg hb))

theorem SeqIdle.memWrite (v : Byte) {k : State → State} (hk : ∀ t, SeqIdle s t → SeqIdle s (k t)) (h : SeqIdle s t) :
    SeqIdle s (memWrite .rel .portB v k t) := by
  obtain ⟨-, e⟩ | ⟨left, -, e⟩ := memWrite_cases .rel .portB v k t
  · rw [e]; exact hk _ (h.event (.write v) rfl rfl rfl rfl)
  · rw [e]; exact .raise _ (h.event (.writeFail v) rfl rfl rfl rfl)

theorem SeqIdle.readOld {k : Byte → State → State} (hk : ∀ v t, SeqIdle s t → SeqIdle s (k v t)) (h : SeqIdle s t) :
    SeqIdle s (readOld .rel k t) := by
  obtain ⟨-, e⟩ | ⟨-, e⟩ := readOld_cases .rel k t
  · rw [e]; exact hk _ _ h
  · rw [e]
    obtain ⟨-, e⟩ | ⟨left, -, e⟩ := memRead_cases .rel .portB k t
    · rw [e]; exact hk _ _ (h.event (.read _) rfl rfl rfl rfl)
    · rw [e]; exact .raise _ (h.event .readFail rfl rfl rfl rfl)

theorem SeqIdle.relNext (l : Line) (h : SeqIdle s t) : SeqIdle s (relNext l t) := by
  unfold Machine.relNext
  split
  · exact h
  · cases l <;> exact h.silent rfl rfl rfl rfl

/-- REL's setter, whole or one of its three parts (R57). -/
theorem SeqIdle.relAct (p : RelPos) (h : SeqIdle s t) : SeqIdle s (relAct p t) := by
  unfold Machine.relAct
  split
  · exact .relNext _ (h.readOld fun _ _ h => h.memWrite _ fun _ h => h.silent rfl rfl rfl rfl)
  · split
    · exact h.readOld fun _ _ h => h.silent rfl rfl rfl rfl
    · exact h.memWrite _ fun _ h => h.silent rfl rfl rfl rfl
    · next new _ => exact .relNext _ (h.silent (u := t.setCtl new) rfl rfl rfl rfl)

theorem SeqIdle.relStep (h : SeqIdle s t) : SeqIdle s (relStep t) := by
  unfold Machine.relStep
  split
  · split
    · exact h.relAct _
    · next n _ _ =>
      exact .relAct _ (h.silent (u := (t.setRelPending n).setRel (some ⟨.ef4, .start⟩)) rfl rfl rfl rfl)
    · exact h
  · exact h

theorem SeqIdle.relSteps (n : Nat) (h : SeqIdle s t) : SeqIdle s (relSteps n t) := by
  induction n generalizing t with
  | zero => exact h
  | succ n ih => exact ih h.relStep

/-- With no kill to come a point is some steps of REL. -/
theorem SeqIdle.interleave (h : SeqIdle s t) : SeqIdle s (interleave t) := by
  rw [interleave_noKill h.noKill]
  refine .relSteps _ ⟨h.data, h.imode, fun x hx => h.noKill x (List.mem_of_mem_tail hx), h.trace⟩

/-- A getter has a point and a response. -/
theorem SeqIdle.getterCommand (val : State → Byte) (h : SeqIdle s t) : SeqIdle s (getterCommand val t) :=
  whileBusy_keeps (fun _ h => h.event (.resp _) rfl rfl rfl rfl)
    (whileBusy_keeps (fun _ h => h.interleave) (h.silent (u := t.setRun .busy) rfl rfl rfl rfl))

theorem SeqIdle.goingOn {f : State → State} (hf : ∀ t, SeqIdle s t → SeqIdle s (f t)) (h : SeqIdle s t) :
    SeqIdle s (goingOn f t) :=
  goingOn_keeps (fun _ h => h.interleave) (fun t _ h => hf t h) h

theorem SeqIdle.asking {val : State → Byte} {k : Byte → State → State} (hk : ∀ v t, SeqIdle s t → SeqIdle s (k v t))
    (h : SeqIdle s t) : SeqIdle s (asking (Machine.getterCommand val) k t) :=
  (h.getterCommand val).goingOn (f := fun t => k t.answer t) fun _ h => hk _ _ h

/-- The status has its three getters and one output more (R148). -/
theorem SeqIdle.renderStatus (h : SeqIdle s t) : SeqIdle s (renderStatus t) :=
  h.goingOn fun _ h => h.asking fun _ _ h => h.asking fun _ _ h => h.asking fun _ _ h =>
    h.event (.status _) rfl rfl rfl rfl

end

/-- Settles O30: both keys are symbols without an effect, so the status is all there is. -/
theorem noOpKeysOnlyRenderStatus : Obligations.NoOpKeysOnlyRenderStatus := by
  intro s c hi i hmem
  have noOp : exec i s = .next (renderStatus s) := by
    obtain rfl | rfl : i = .keyNop c ∨ i = .keyboardNop c := by simpa using hmem
    · exact symbol_idle hi id
    · exact symbol_idle hi id
  refine ⟨fun hc => ?calm, fun hk => ?noKill⟩
  case calm =>
    obtain ⟨e, he, status⟩ := renderStatus_calm hi hc
    exact ⟨e, he, noOp.trans (congrArg _ status)⟩
  case noKill =>
    obtain ⟨hd, hm, -, es, ht, hes⟩ := (SeqIdle.refl hk).renderStatus
    refine ⟨_, es, noOp, ht, hd, hm, fun x hx => ?_⟩
    cases hes x hx <;> simp

end Sys2Proof.Safety
end

section
/-! PROOFS. One release under the decided parameters (rules R146, R165, R168): a step of REL is one write of port B that
deasserts its line, or the fault of that write. -/

namespace Sys2Proof.Safety

open Sys2Proof.Machine

/-- REL's write of line `l` has failed, with `left` on the port (R165, R168). -/
def lineFailed (l : Line) (left : Byte) (s : State) : State :=
  raise (.portIOError .b .write) ((s.popPio.setReg .portB left).log (.writeFail .rel .portB (s.ctl ||| l.mask)))

section
variable {s : State} (hd : s.cfg = Params.decided)
include hd

/-- Everything REL's setter of a line can do. -/
theorem setFieldAtomic_line_cases (l : Line) :
    (s.pioReply = .ok ∧ setFieldAtomic .rel l.mask l.mask s = lineDone l s) ∨
    (∃ left, s.pioReply = .fail left ∧ setFieldAtomic .rel l.mask l.mask s = lineFailed l left s) := by
  have mirror : setFieldAtomic .rel l.mask l.mask s =
      memWrite .rel .portB (s.ctl ||| l.mask) (State.setCtl (s.ctl ||| l.mask)) s := by
    simp only [setFieldAtomic, readOld, hd, Params.decided, masked_line]
  rw [mirror]
  exact memWrite_cases .rel .portB (s.ctl ||| l.mask) (State.setCtl (s.ctl ||| l.mask)) s

theorem relAct_decided (p : RelPos) : relAct p s = relNext p.line (setFieldAtomic .rel p.line.mask p.line.mask s) :=
  if_pos (by rw [hd]; rfl)

theorem relAct_done (hl : s.run ≠ .faulted) (hp : s.pioReply = .ok) (p : RelPos) :
    relAct p s = (lineDone p.line s).setRel (relAfter p.line) := by
  obtain ⟨-, e⟩ | ⟨left, hf, -⟩ := setFieldAtomic_line_cases hd p.line
  · rw [relAct_decided hd, e]
    cases p.line <;> simp [relNext, hl, relAfter]
  · simp [hp] at hf

theorem relAct_failed {left : Byte} (hp : s.pioReply = .fail left) (p : RelPos) :
    relAct p s = lineFailed p.line left s := by
  obtain ⟨ho, -⟩ | ⟨left', hf, e⟩ := setFieldAtomic_line_cases hd p.line
  · simp [hp] at ho
  · obtain rfl : left = left' := by simpa [hp] using hf
    rw [relAct_decided hd, e]
    exact if_pos rfl

end

/-! Whatever fails. -/

/-- `s` without what RELEASE may change: bits 2 and 1 of `ctl`, port B, the run state with its fault, REL's own
position, the last response, the record and the answers to come. -/
def besidesRelease (s : State) : State :=
  { s with
    ctl := s.ctl &&& 0xF9#8, periph := { s.periph with portB := 0x00#8 }
    run := .idle, cause := .none, loop := .running, relPending := 0, rel := none
    resp := none, trace := [], env := ⟨[], [], []⟩ }

theorem besidesRelease_setRel (p : Option RelPos) (s : State) : besidesRelease (s.setRel p) = besidesRelease s := rfl

theorem besidesRelease_setRelPending (n : Nat) (s : State) :
    besidesRelease (s.setRelPending n) = besidesRelease s := rfl

theorem besidesRelease_lineDone (l : Line) (s : State) : besidesRelease (lineDone l s) = besidesRelease s :=
  congrArg (fun c => { besidesRelease s with ctl := c })
    ((congrArg (· &&& 0xF9#8) (deassert_eq s.ctl l).symm).trans (foldl_deassert_and_F9 [l] s.ctl))

theorem besidesRelease_lineFailed (l : Line) (left : Byte) (s : State) :
    besidesRelease (lineFailed l left s) = besidesRelease s := rfl

theorem besidesRelease_relNext (l : Line) (s : State) : besidesRelease (relNext l s) = besidesRelease s := by
  unfold relNext
  split
  · rfl
  · cases l <;> rfl

theorem besidesRelease_relAct {s : State} (hd : s.cfg = Params.decided) (p : RelPos) :
    besidesRelease (relAct p s) = besidesRelease s := by
  rw [relAct_decided hd, besidesRelease_relNext]
  obtain ⟨-, e⟩ | ⟨left, -, e⟩ := setFieldAtomic_line_cases hd p.line
  · rw [e, besidesRelease_lineDone]
  · rw [e, besidesRelease_lineFailed]

theorem besidesRelease_relStep {s : State} (hd : s.cfg = Params.decided) :
    besidesRelease (relStep s) = besidesRelease s := by
  unfold relStep
  split
  · split
    · exact besidesRelease_relAct hd _
    · next n _ _ =>
      exact besidesRelease_relAct (s := (s.setRelPending n).setRel (some ⟨.ef4, .start⟩)) hd _
    · rfl
  · rfl

theorem besidesRelease_relSteps (n : Nat) {s : State} (hd : s.cfg = Params.decided) :
    besidesRelease (relSteps n s) = besidesRelease s := by
  induction n generalizing s with
  | zero => rfl
  | succ n ih => rw [relSteps, ih ((relStep_cfg s).trans hd), besidesRelease_relStep hd]

/-- A release is handled in IDLE and BUSY. -/
theorem exec_release_live {s : State} (hl : s.run = .idle ∨ s.run = .busy) :
    exec .release s = .next (relDrain (s.setRelPending (s.relPending + 1))) := if_pos hl

/-- Settles O40: each step of REL changes bits 2 and 1 of `ctl` and port B, or ends the session. -/
theorem releaseLeavesEverythingElse : Obligations.ReleaseLeavesEverythingElse := by
  intro s t hd e
  have same : besidesRelease t = besidesRelease s := by
    by_cases hl : s.run = .idle ∨ s.run = .busy
    · rw [exec_release_live hl] at e
      obtain rfl : _ = t := by simpa using e
      exact besidesRelease_relSteps _ (s := s.setRelPending (s.relPending + 1)) hd
    · rw [execRelease_notLive (not_or.1 hl).1 (not_or.1 hl).2] at e
      cases e
  have field {α : Type} (f : State → α) : f (besidesRelease t) = f (besidesRelease s) := congrArg f same
  exact ⟨field State.ctl, field State.data, field State.seqPc, field State.lastSt, field State.freshA,
    field State.freshB, field State.handle, field State.imode, field State.inputs, field State.status,
    field State.images, field State.cfg, field State.free, field (·.periph.portA), field (·.periph.dirA),
    field (·.periph.dirB)⟩

/-! Its two writes. -/

theorem relStep_at_live {s : State} (hl : s.run = .idle ∨ s.run = .busy) (p : RelPos) :
    relStep (s.setRel (some p)) = relAct p (s.setRel (some p)) := if_pos hl

section
variable {s : State} (hl : s.run = .idle ∨ s.run = .busy) (hd : s.cfg = Params.decided)
include hl hd

/-- REL at a line, when its write does not fail. -/
theorem relStep_done (hp : s.pioReply = .ok) (l : Line) :
    relStep (s.setRel (some ⟨l, .start⟩)) = (lineDone l s).setRel (relAfter l) := by
  have alive : s.run ≠ .faulted := by rintro h; simp [h] at hl
  rw [relStep_at_live hl, relAct_done (s := s.setRel (some ⟨l, .start⟩)) hd alive hp]
  rfl

/-- REL at a line, when its write fails. -/
theorem relStep_failed {left : Byte} (hp : s.pioReply = .fail left) (l : Line) :
    relStep (s.setRel (some ⟨l, .start⟩)) = (lineFailed l left s).setRel (some ⟨l, .start⟩) := by
  rw [relStep_at_live hl, relAct_failed (s := s.setRel (some ⟨l, .start⟩)) hd hp]
  rfl

/-- With nothing else pending, the first step of an event is the write of `ef4_n`. -/
theorem relStep_first (hn : s.relPending = 0) (hr : s.rel = none) (hp : s.pioReply = .ok) :
    relStep (s.setRelPending 1) = (lineDone .ef4 s).setRel (some ⟨.stb, .start⟩) := by
  have same : (s.setRelPending 1).setRelPending 0 = s := by rw [State.setRelPending, ← hn]; rfl
  have begins : relStep (s.setRelPending 1) = relStep (s.setRel (some ⟨.ef4, .start⟩)) := by
    simp [relStep, hl, hr, same]
  rw [begins, relStep_done hl hd hp, relAfter]

/-- An event just delivered: after its first write the drain goes on with the second, and has ten steps to spare. -/
theorem relDrain_first (hn : s.relPending = 0) (hr : s.rel = none) (hp : s.pioReply = .ok) :
    relDrain (s.setRelPending 1) = relSteps 10 (relStep ((lineDone .ef4 s).setRel (some ⟨.stb, .start⟩))) := by
  rw [← relStep_first hl hd hn hr hp]
  rfl

end

/-- Settles O38: the first two steps of the drain write the two lines, and the others find nothing to do. -/
theorem releaseDeassertsBothLines : Obligations.ReleaseDeassertsBothLines := by
  intro s hl hd he hn hr
  have first := relDrain_first hl hd hn hr (pioReply_reliable he)
  have second := relStep_done (s := lineDone .ef4 s) hl hd (pioReply_reliable (lineDone_reliable .ef4 he)) .stb
  have drain : relDrain (s.setRelPending 1) = (lineDone .stb (lineDone .ef4 s)).setRel none := by
    rw [first, second]
    exact relSteps_nothing 10 hn rfl
  refine ⟨_, lineDone_reliable .stb (lineDone_reliable .ef4 he), rfl, ?_⟩
  rw [exec_release_live hl, hn, drain]
  simp [lineDone, State.setRel, Line.mask, Config.maskEf4, Config.maskStb, BitVec.or_assoc, hr, hn]

/-- Settles O49: the second step of the drain faults, and REL takes no step in FAULTED. -/
theorem releaseFailingAtItsSecondWrite : Obligations.ReleaseFailingAtItsSecondWrite := by
  intro s left rest hi hd hn hr hf
  have first := relDrain_first (.inl hi) hd hn hr (by simp [State.pioReply, hf])
  have second := relStep_failed (s := lineDone .ef4 s) (left := left) (.inl hi) hd
    (by simp [State.pioReply, lineDone, hf]) .stb
  have drain : relDrain (s.setRelPending 1) =
      (lineFailed .stb left (lineDone .ef4 s)).setRel (some ⟨.stb, .start⟩) := by
    rw [first, second]
    exact relSteps_notLive 10 (s := (lineFailed .stb left (lineDone .ef4 s)).setRel _) (by simp [lineFailed])
      (by simp [lineFailed])
  refine ⟨some ⟨.stb, .start⟩, ?_⟩
  rw [exec_release_live (.inl hi), hn, drain]
  simp [lineFailed, lineDone, raise, State.setRel, State.log, State.popPio, State.setReg, Periph.set, Line.mask,
    Config.maskEf4, Config.maskStb, BitVec.or_assoc, hi, hn, hf]

/-! An event half handled when quit comes. -/

theorem exec_quit {s : State} (hi : s.run = .idle) :
    exec .quit s = .next { s with run := .terminated, loop := .exitedSuccess } :=
  whenIdle_idle hi fun s => { s with run := .terminated, loop := .exitedSuccess }

theorem takeInput_events {s : State} {a n : Nat} {rest : List Input} (h : s.inputs = .events a n :: rest) :
    takeInput s = .next (deliver a n { s with inputs := rest }) := by rw [takeInput, h]

/-- Settles O27: the one step of REL is its first write, and quit ends the session before the second. -/
theorem quitEndsTheSession : Obligations.QuitEndsTheSession := by
  refine ⟨fun s hi => exec_quit hi, fun s rest hi hd he hn hr hin => ?_⟩
  let s1 : State := { s with inputs := .offer (.key 0x71#8) :: rest }
  let t : State := (lineDone .ef4 s1).setRel (some ⟨.stb, .start⟩)
  have first : step s = .next t := by
    have one : relStep (s1.setRelPending 1) = t :=
      relStep_first (s := s1) (.inl hi) hd hn hr (pioReply_reliable (s := s1) he)
    rw [step_idle hi, takeInput_events hin, deliver, ← one]
    simp [s1, relSteps, hn]
  have second : step t = .next { t with inputs := rest, run := .terminated, loop := .exitedSuccess } := by
    rw [step_idle (s := t) hi, takeInput_offer (s := t) rfl]
    exact exec_quit (s := { t with inputs := rest }) hi
  exact ⟨t, _, first, second, rfl, rfl, rfl, rfl, rfl, rfl, rfl, rfl⟩

end Sys2Proof.Safety
end

section
/-! PROOFS. The keys in a calm environment (rules R134 to R144, R148): the effect of the command a key invokes, then the
status. A key that first reads the mirror, and KEY_CHAR, invoke two commands. -/

namespace Sys2Proof.Safety

open Sys2Proof.Machine

/-! A key that invokes one command. -/

/-- A key has the effect of its command, and then the status. -/
theorem symbol_of_command {s t : State} {k : State → State} {st : BitVec 4} {v : Byte} (hr : Ready s)
    (h : ∃ e, Calm e ∧ whenIdle k s = .next (answered t e st v)) :
    ∃ e, Calm e ∧ symbol k s = .next (rendered (answered t e st v)) := by
  obtain ⟨e, he, hx⟩ := h
  rw [whenIdle_idle hr.1] at hx
  exact symbol_calm hr.1 he (Host.Outcome.next.inj hx)

/-- Settles O31: each of the three keys is SET_EF4 true. -/
theorem interruptKeysAssertEf4 : Obligations.InterruptKeysAssertEf4 := by
  intro s hr
  obtain ⟨-, setEf4, -⟩ := booleanSettersWriteTheirBit s true hr
  have key := symbol_of_command (k := setEf4Command true) hr setEf4
  simp only [List.forall_mem_cons, List.not_mem_nil, false_implies, implies_true, and_true]
  exact ⟨key, key, key⟩

/-- Settles O34: each of the four keys is SET_MODE of its code. -/
theorem modeKeysSetTheirMode : Obligations.ModeKeysSetTheirMode := by
  intro s hr
  have key (m : Mode) (hm : m.code ∈ [0x00#8, 0x08#8, 0x10#8, 0x18#8]) :=
    symbol_of_command (k := setModeCommand m.code) hr (setModeWritesTheModeField s m.code hr hm)
  simp only [List.forall_mem_cons, List.not_mem_nil, false_implies, implies_true, and_true]
  exact ⟨key .load (by decide), key .reset (by decide), key .run (by decide), key .pause (by decide)⟩

/-- Settles O36: KEY_Z is LOAD_MONITOR and KEY_M is RUN_MONITOR. -/
theorem bootstrapKeysRunTheirSequence : Obligations.BootstrapKeysRunTheirSequence := fun s hr =>
  ⟨symbol_of_command (k := loadMonitorCommand) hr (loadMonitorRunsItsNineteenSteps s hr),
    symbol_of_command (k := runMonitorCommand) hr (runMonitorRunsItsTenSteps s hr)⟩

/-! A key that invokes two. -/

theorem ready_answered {s : State} (hd : s.cfg = Params.decided) {e : Env} (he : Calm e) (st : BitVec 4) (v : Byte) :
    Ready (answered s e st v) := ⟨rfl, hd, he⟩

theorem Ready.rendered {s : State} (hr : Ready s) : Ready (rendered s) := hr

theorem setDataCommand_calm {s : State} (hr : Ready s) (b : Byte) :
    ∃ e, Calm e ∧ setDataCommand b s = answered (withBus s ((busOf s).putA b)) e 0 0x00#8 :=
  command_calm hr [⟨.empty, .setData b⟩] noValue fun _ _ _ _ => rfl

theorem setterCommand_calm {s : State} (hr : Ready s) (mask bits : Byte) : ∃ e, Calm e ∧
    setterCommand mask bits s = answered (withBus s ((busOf s).putB (maskedByte s.ctl mask bits))) e 0 0x00#8 :=
  command_calm hr [⟨.empty, .setField mask bits⟩] noValue fun _ _ _ _ => rfl

theorem setMpCommand_calm {s : State} (hr : Ready s) (v : Bool) :
    ∃ e, Calm e ∧ setMpCommand v s = answered (withBus s ((busOf s).setMp v)) e 0 0x00#8 := by
  have h := setterCommand_calm hr Config.maskMp (mpBits v)
  rwa [masked_mp] at h

theorem setStbCommand_calm {s : State} (hr : Ready s) (v : Bool) :
    ∃ e, Calm e ∧ setStbCommand v s = answered (withBus s ((busOf s).setStb v)) e 0 0x00#8 := by
  have h := setterCommand_calm hr Config.maskStb (stbBits v)
  rwa [masked_stb] at h

/-- A key whose first command leaves `m` and answers `v`, and whose second has the effect `f` on the bus found then; in
between is a point, and then the status. -/
theorem symbol_of_two_commands {s m : State} {v : Byte} {first second : State → State} {f : Bus → Bus} (hr : Ready s)
    (h1 : ∃ e, Calm e ∧ first s = answered m e 0 v)
    (h2 : ∀ e, Calm e → ∃ e', Calm e' ∧ second (answered m e 0 v) =
      answered (withBus (answered m e 0 v) (f (busOf (answered m e 0 v)))) e' 0 0x00#8) :
    ∃ e, Calm e ∧ symbol (fun s => goingOn second (first s)) s =
      .next (rendered (answered (withBus (answered m e 0 v) (f (busOf (answered m e 0 v)))) e 0 0x00#8)) := by
  obtain ⟨e1, c1, one⟩ := h1
  obtain ⟨e2, c2, point⟩ := goingOn_calm (s := answered m e1 0 v) rfl c1
  obtain ⟨e3, c3, two⟩ := h2 e2 c2
  have both : goingOn second (first s) =
      answered (withBus (answered m e2 0 v) (f (busOf (answered m e2 0 v)))) e3 0 0x00#8 := by
    rw [one, point]
    exact two
  exact symbol_calm (k := fun s => goingOn second (first s)) hr.1 c3 both

/-- R135: the shift exact in eight bits is the sum modulo 256. -/
theorem shiftInNibble_eq (d : Byte) (n : Fin 16) :
    shiftInNibble d (BitVec.ofNat 4 n.val) = BitVec.ofNat 8 (d.toNat * 16 + n.val) := by
  have high (i : Nat) (h : 4 ≤ i) : n.val.testBit i = false :=
    Nat.testBit_lt_two_pow (n.isLt.trans_le (Nat.pow_le_pow_right Nat.two_pos h))
  have disjoint : (d <<< 4) &&& (BitVec.ofNat 4 n.val).zeroExtend 8 = 0#8 := by
    ext i
    simpa using fun h _ => high i h
  rw [shiftInNibble, ← BitVec.add_eq_or_of_and_eq_zero _ _ disjoint]
  apply BitVec.eq_of_toNat_eq
  simp [Nat.shiftLeft_eq]

theorem exec_hexKeyOf (n : Fin 16) (s : State) : exec (hexKeyOf n) s = hexKey (BitVec.ofNat 4 n.val) s := by
  fin_cases n <;> rfl

/-- Settles O32: GET_DATA, then SET_DATA of its answer with the nibble shifted in. -/
theorem hexKeysShiftInTheirNibble : Obligations.HexKeysShiftInTheirNibble := by
  intro s hr n
  rw [exec_hexKeyOf, ← shiftInNibble_eq]
  exact symbol_of_two_commands (f := Bus.putA (shiftInNibble s.data (BitVec.ofNat 4 n.val))) hr
    (getterCommand_calm hr.2.2 fun _ _ h _ => h) fun _ he =>
      setDataCommand_calm (ready_answered hr.2.1 he ..) _

theorem exec_hexKey_data {s : State} (hr : Ready s) (n : Fin 16) : ∃ t, exec (hexKeyOf n) s = .next t ∧ Ready t ∧
    t.data = BitVec.ofNat 8 (s.data.toNat * 16 + n.val) := by
  obtain ⟨e, he, hx⟩ := hexKeysShiftInTheirNibble s hr n
  exact ⟨_, hx, (ready_answered (s := withBus _ _) hr.2.1 he ..).rendered, rfl⟩

/-- Any digits complete, and `data` is what they shift in one after another. -/
theorem runAll_hexKeys {s : State} (hr : Ready s) (digits : List (Fin 16)) :
    ∃ t, runAll (digits.map hexKeyOf) s = some t ∧
      t.data = digits.foldl (fun d n => BitVec.ofNat 8 (d.toNat * 16 + n.val)) s.data := by
  induction digits generalizing s with
  | nil => exact ⟨s, rfl, rfl⟩
  | cons n digits ih =>
    obtain ⟨u, hx, hu, hn⟩ := exec_hexKey_data hr n
    obtain ⟨t, ht, hd⟩ := ih hu
    exact ⟨t, (runAll_cons hx).trans ht, by rw [hd, hn]; rfl⟩

/-- Settles O33: of what the digits before shift in, the last two leave no bit in the byte. -/
theorem hexDigitsLeaveTheLastTwo : Obligations.HexDigitsLeaveTheLastTwo := by
  intro s before a b hr
  obtain ⟨t, ht, hd⟩ := runAll_hexKeys hr (before ++ [a, b])
  rw [ht, Option.map_some, hd, List.foldl_append]
  congr 1
  apply BitVec.eq_of_toNat_eq
  simp only [List.foldl_cons, List.foldl_nil, BitVec.toNat_ofNat]
  omega

/-- Settles O35: GET_MP, then SET_MP of its answer negated. -/
theorem protectKeyNegatesMemProtect : Obligations.ProtectKeyNegatesMemProtect := by
  intro s hr
  have answer : ∀ c : Byte, boolByte (decMp c) = (if c.getLsbD 0 then 0x01#8 else 0x00#8) ∧
      (boolByte (decMp c)).getLsbD 0 = c.getLsbD 0 := by decide
  obtain ⟨value, bit⟩ := answer s.ctl
  rw [← value]
  refine symbol_of_two_commands (f := Bus.setMp (!s.ctl.getLsbD 0)) hr
    (getterCommand_calm (val := fun s => boolByte (decMp s.ctl)) hr.2.2 fun _ _ _ h => by rw [h]) fun e he => ?_
  rw [← bit]
  exact setMpCommand_calm (ready_answered hr.2.1 he ..) _

/-- Settles O37: SET_DATA of the code, then SET_STB true. -/
theorem characterKeyWritesDataThenStrobe : Obligations.CharacterKeyWritesDataThenStrobe := fun _ c hr =>
  symbol_of_two_commands (second := setStbCommand true) (f := Bus.setStb true) hr (setDataCommand_calm hr c)
    fun _ he => setStbCommand_calm (ready_answered (s := withBus _ _) hr.2.1 he ..) true

end Sys2Proof.Safety
end

section
/-! PROOFS. KEY_CHAR whose second command faults (rules R144, R165, R168): with nothing interleaving, the first command
has had its effect and answered, and no status is rendered. -/

namespace Sys2Proof.Safety

open Sys2Proof.Machine

section
variable {s : State}

/-- With no slot to come, a command whose actions all succeed answers. -/
theorem command_succeeds (hd : s.cfg = Params.decided) (hq : s.env.sched = []) {ms : List Micro}
    (hs : AllSucceed ms s.env) :
    command ms noValue s = answered { withBus s (ms.foldl actBus (busOf s)) with handle := ms.foldl actHandle s.handle }
      (envAfterAll ms s.env) 0 0x00#8 := by
  obtain ⟨pc, acts⟩ := foldl_seqStep_succeeds hd (busOf s) hq hs s.seqPc s.handle
  have start : s.setRun .busy = running s (busOf s) s.env s.seqPc s.handle := rfl
  have last : interleave (running s (ms.foldl actBus (busOf s)) (envAfterAll ms s.env) pc
      (ms.foldl actHandle s.handle)) = running s (ms.foldl actBus (busOf s)) (envAfterAll ms s.env) pc
        (ms.foldl actHandle s.handle) := interleave_nil ((envAfterAll_sched ms s.env).trans hq)
  rw [command, seqRun, start, acts, whileBusy_busy (f := interleave) rfl, last, whileBusy_busy rfl]
  rfl

/-- With no slot to come, the host goes on at once. -/
theorem goingOn_nil (hi : s.run = .idle) (hq : s.env.sched = []) (f : State → State) : goingOn f s = f s :=
  goingOn_idle hi (interleave_nil hq) hi

/-- After a fault no status is rendered (R148, R168). -/
theorem renderStatus_faulted (hf : s.run = .faulted) : renderStatus s = s := if_neg (by simp [hf])

theorem setDataCommand_succeeds (hd : s.cfg = Params.decided) (hq : s.env.sched = []) (hp : s.pioReply = .ok)
    (b : Byte) :
    setDataCommand b s = answered (withBus s ((busOf s).putA b)) { s.env with pio := s.env.pio.tail } 0 0x00#8 :=
  command_succeeds hd hq (ms := [⟨.empty, .setData b⟩]) ⟨hp, trivial⟩

/-- A setter whose write fails. -/
theorem setterCommand_fails {left : Byte} {rest : List PioReply} (hd : s.cfg = Params.decided) (hq : s.env.sched = [])
    (hf : s.env.pio = .fail left :: rest) (mask bits : Byte) :
    setterCommand mask bits s = stopped s
      ({ busOf s with portB := left }.note (.writeFail .seq .portB (maskedByte s.ctl mask bits)))
      { s.env with pio := rest } .empty s.handle (.portIOError .b .write) :=
  command_stops hd hq (done := []) rfl trivial (perform_setField_fails hd hf mask bits) rfl noValue

end

/-- Settles O50: SET_DATA succeeds and answers, and SET_STB stops at its write. -/
theorem characterKeyFailingAtTheStrobe : Obligations.CharacterKeyFailingAtTheStrobe := by
  intro s c left rest hi hd hp hq
  let sent : State := answered (withBus s ((busOf s).putA c)) ⟨.fail left :: rest, s.env.img, []⟩ 0 0x00#8
  have left_env : { s.env with pio := s.env.pio.tail } = ⟨.fail left :: rest, s.env.img, []⟩ := by simp [hp, hq]
  have data : setDataCommand c s = sent := by
    rw [setDataCommand_succeeds hd hq (by simp [State.pioReply, hp]), left_env]
  have strobe := setterCommand_fails (s := sent) hd rfl rfl Config.maskStb (stbBits true)
  have key : exec (.keyChar c) s = .next (renderStatus (goingOn (setStbCommand true) (setDataCommand c s))) :=
    symbol_idle hi fun s => goingOn (setStbCommand true) (setDataCommand c s)
  rw [key, data, goingOn_nil (s := sent) rfl rfl, setStbCommand, strobe, renderStatus_faulted rfl]
  simp [sent, stopped, answered, withBus, busOf, Bus.putA, Bus.note, masked_stb, Cause.code]

end Sys2Proof.Safety
end

section
/-! PROOFS. Commands refused or stopped at once (rules R73, R163, R165, R166, R168): the refusal of a reserved word, and
commands whose first action fails, where nothing is done but the failed operation. -/

namespace Sys2Proof.Safety

open Sys2Proof.Machine

/-- Settles O15: `reservedCmd` responds without an action. -/
theorem reservedWordsAreRefused : Obligations.ReservedWordsAreRefused := by
  intro s w hi hp
  rw [exec_reservedCmd hi, respond_of_idle hi hp]
  rfl

section
variable {s : State}

/-- A command that its first action ends with a fault, under any parameters. -/
theorem command_stops_first {u : State} (hq : s.env.sched = []) {m : Micro} (rest : List Micro)
    (hact : m.act.perform (running s (busOf s) s.env m.pos s.handle) = u) (hu : u.run = .faulted)
    (val : State → Byte) : command (m :: rest) val s = u := by
  have point : interleave ((s.setRun .busy).setSeqPc m.pos) = running s (busOf s) s.env m.pos s.handle :=
    interleave_nil hq
  have ended : u.run ≠ .busy := by simp [hu]
  have stop : (m :: rest).foldl seqStep (s.setRun .busy) = u := by
    rw [List.foldl_cons, seqStep_go rfl point rfl, hact, foldl_seqStep_over rest ended]
  rw [command, seqRun, stop, whileBusy_done ended, whileBusy_done ended]

/-! Writes that fail. -/

/-- A failed write of port A leaves the mirror (R165). -/
theorem perform_setData_fails {b : Bus} {e : Env} {pc : SeqPc} {h : Option ImageId} {left : Byte}
    {rest : List PioReply} (hf : e.pio = .fail left :: rest) (v : Byte) :
    (Action.setData v).perform (running s b e pc h) =
      stopped s ({ b with portA := left }.note (.writeFail .seq .portA v)) { e with pio := rest } pc h
        (.portIOError .a .write) := by
  have hp : (running s b e pc h).pioReply = .fail left := by simp [State.pioReply, running, hf]
  simp only [Action.perform, writeData, memWrite, hp]
  simp [raise, running, stopped, State.popPio, State.log, State.setReg, Periph.set, withBus, Bus.note, hf, accessFault]

/-- SET_DATA whose write fails. -/
theorem setDataCommand_fails {left : Byte} {rest : List PioReply} (hq : s.env.sched = [])
    (hf : s.env.pio = .fail left :: rest) (v : Byte) :
    setDataCommand v s = stopped s ({ busOf s with portA := left }.note (.writeFail .seq .portA v))
      { s.env with pio := rest } .empty s.handle (.portIOError .a .write) :=
  command_stops_first hq [] (perform_setData_fails hf v) rfl noValue

end

/-- Settles O44: each setter stops at its one write. -/
theorem failedSetterWriteEntersTheFault : Obligations.FailedSetterWriteEntersTheFault := by
  intro s left rest m b v hi hd hp hq hm failedB
  have setter {i : Instr} {mask bits : Byte} (h : SetsField i mask bits) :
      exec i s = .next (failedB (maskedByte s.ctl mask bits)) := by
    rw [h.exec_eq, whenIdle_idle hi, setterCommand_fails hd hq hp]
    simp [failedB, stopped, withBus, busOf, Bus.note, hq, Cause.code]
  have data : exec (.setData b) s = .next (setDataCommand b s) := whenIdle_idle hi _
  refine ⟨setter (setsField_setMode hm), ?mp, ?ef4, ?stb, ?data⟩
  case mp => rw [← masked_mp, setter (setsField_setMp v)]
  case ef4 => rw [← masked_ef4, setter (setsField_setEf4 v)]
  case stb => rw [← masked_stb, setter (setsField_setStb v)]
  case data =>
    rw [data, setDataCommand_fails hq hp]
    simp [stopped, withBus, busOf, Bus.note, hq, Cause.code]

/-! Images that cannot be opened. -/

theorem exec_loadProgram {s : State} (hi : s.run = .idle) {p : Instr × ImageId}
    (h : p ∈ [(Instr.loadProgram0, ImageId.bootstrap), (.loadProgram1, .monitor), (.loadProgram2, .bios)]) :
    exec p.1 s = .next (loadProgramCommand p.2 s) := by
  simp only [List.mem_cons, List.not_mem_nil, or_false] at h
  obtain rfl | rfl | rfl := h <;> exact whenIdle_idle hi _

/-- Settles O46: the open is the first action of each LOAD_PROGRAM. -/
theorem unopenableImageStopsTheLoad : Obligations.UnopenableImageStopsTheLoad := by
  intro s rest hi himg hq p hpair
  have stops : loadProgramCommand p.2 s = _ :=
    command_stops_first hq _ (perform_imgOpen_fails himg p.2) rfl noValue
  rw [exec_loadProgram hi hpair, stops]
  simp [stopped, withBus, busOf, Bus.note, hq, Cause.code]

end Sys2Proof.Safety
end

section
/-! PROOFS. Attach without a kill, stage by stage (rule R191): the state each access leaves. -/

namespace Sys2Proof.Safety

open Sys2Proof.Machine

/-! The stages. -/

/-- A register read. -/
def readDone (r : PortReg) (s : State) : State := s.popPio.log (.read .seq r (s.periph.get r))

/-- A register written. -/
def writeDone (r : PortReg) (v : Byte) (s : State) : State := (s.popPio.setReg r v).log (.write .seq r v)

/-- A point of attach passed without a kill. -/
def passed (s : State) : State := s.setSched s.env.sched.tail

/-- The direction of a port judged (R191 steps 1 and 2). -/
def judged (x : Port) (s : State) : State :=
  { s with
    env := ⟨s.env.pio.tail, s.env.img, s.env.sched.tail⟩
    trace := s.trace ++ [.read .seq x.dirReg (s.periph.get x.dirReg)] }

/-- A cold port made all-output (R191 step 3). -/
def directed (x : Port) (s : State) : State :=
  { s with
    env := ⟨s.env.pio.tail.tail, s.env.img, s.env.sched.tail.tail⟩
    periph := s.periph.set x.dirReg Config.dirAllOutput
    trace := s.trace ++
      [.read .seq x.dirReg (s.periph.get x.dirReg), .write .seq x.dirReg Config.dirAllOutput] }

/-- A warm port attached: its byte is adopted (R191 steps 1, 6 and 7). -/
def adopted (x : Port) (s : State) : State :=
  adopt x (s.periph.get x.valueReg) false
    { s with
      env := ⟨s.env.pio.tail.tail, s.env.img, s.env.sched.tail⟩
      trace := s.trace ++
        [.read .seq x.dirReg (s.periph.get x.dirReg), .read .seq x.valueReg (s.periph.get x.valueReg)] }

/-- A cold port attached: it holds its default (R191 steps 1 to 5). -/
def initialised (x : Port) (s : State) : State :=
  adopt x x.default true
    { s with
      env := ⟨s.env.pio.tail.tail.tail, s.env.img, s.env.sched.tail.tail⟩
      periph := (s.periph.set x.dirReg Config.dirAllOutput).set x.valueReg x.default
      trace := s.trace ++
        [.read .seq x.dirReg (s.periph.get x.dirReg), .write .seq x.dirReg Config.dirAllOutput,
         .write .seq x.valueReg x.default] }

theorem passed_readDone (x : Port) (s : State) : passed (readDone x.dirReg s) = judged x s := rfl

theorem passed_writeDone_judged (x : Port) (s : State) :
    passed (writeDone x.dirReg Config.dirAllOutput (judged x s)) = directed x s := by
  simp [passed, writeDone, judged, directed, State.setSched, State.log, State.setReg, State.popPio]

theorem adopt_readDone_judged (x : Port) (s : State) :
    adopt x (s.periph.get x.valueReg) false (readDone x.valueReg (judged x s)) = adopted x s := by
  simp [readDone, judged, adopted, State.log, State.popPio]

theorem adopt_writeDone_directed (x : Port) (s : State) :
    adopt x x.default true (writeDone x.valueReg x.default (directed x s)) = initialised x s := by
  simp [writeDone, directed, initialised, State.log, State.setReg, State.popPio]

section
variable {s : State}

theorem memRead_done (h : s.pioReply = .ok) (r : PortReg) (k : Byte → State → State) :
    memRead .seq r k s = k (s.periph.get r) (readDone r s) := by
  rw [memRead, h]
  rfl

theorem memWrite_done (h : s.pioReply = .ok) (r : PortReg) (v : Byte) (k : State → State) :
    memWrite .seq r v k s = k (writeDone r v s) := by
  rw [memWrite, h]
  rfl

theorem noKill_passed (h : NoKill s.env) : NoKill (passed s).env := fun sl hs => h sl (List.mem_of_mem_tail hs)

theorem attachPoint_noKill (h : NoKill s.env) (k : State → State) : attachPoint k s = k (passed s) := by
  cases hs : s.env.sched with
  | nil =>
    have same : passed s = s := by
      rw [passed, hs, List.tail_nil, ← hs]
      rfl
    rw [same, attachPoint, hs]
  | cons sl rest =>
    have alive : sl.kill = false := h sl (hs ▸ List.mem_cons_self)
    simp [attachPoint, passed, hs, alive]

end

theorem step_unattached {s : State} (h : s.run = .unattached) : step s = .next (attach s) := by simp [step, h]

/-! One port. -/

section
variable {x : Port} {k : State → State} {s : State}

/-- A warm port is read next. -/
theorem attachPort_warm (hk : NoKill s.env) (hd : s.periph.get x.dirReg = Config.dirAllOutput) (h : s.pioReply = .ok) :
    attachPort x k s = memRead .seq x.valueReg (fun v s => k (adopt x v false s)) (judged x s) := by
  rw [attachPort, memRead_done h, attachPoint_noKill (s := readDone x.dirReg s) hk, if_pos hd, passed_readDone]

/-- A cold port is made all-output next. -/
theorem attachPort_cold (hk : NoKill s.env) (hd : s.periph.get x.dirReg ≠ Config.dirAllOutput)
    (h : s.pioReply = .ok) :
    attachPort x k s = memWrite .seq x.dirReg Config.dirAllOutput (attachPoint <|
      memWrite .seq x.valueReg x.default fun s => k (adopt x x.default true s)) (judged x s) := by
  rw [attachPort, memRead_done h, attachPoint_noKill (s := readDone x.dirReg s) hk, if_neg hd, passed_readDone]

/-- A cold port made all-output is written its default next. -/
theorem attachPort_directed (hk : NoKill s.env) (hd : s.periph.get x.dirReg ≠ Config.dirAllOutput)
    (h : s.pioReply = .ok) (h' : (judged x s).pioReply = .ok) :
    attachPort x k s =
      memWrite .seq x.valueReg x.default (fun s => k (adopt x x.default true s)) (directed x s) := by
  have alive : NoKill (writeDone x.dirReg Config.dirAllOutput (judged x s)).env := noKill_passed (s := s) hk
  rw [attachPort_cold hk hd h, memWrite_done h', attachPoint_noKill alive, passed_writeDone_judged]

theorem attachPort_adopted (hk : NoKill s.env) (hd : s.periph.get x.dirReg = Config.dirAllOutput)
    (h : s.pioReply = .ok) (h' : (judged x s).pioReply = .ok) : attachPort x k s = k (adopted x s) := by
  rw [attachPort_warm hk hd h, memRead_done h', ← adopt_readDone_judged]
  rfl

theorem attachPort_initialised (hk : NoKill s.env) (hd : s.periph.get x.dirReg ≠ Config.dirAllOutput)
    (h : s.pioReply = .ok) (h' : (judged x s).pioReply = .ok) (h'' : (directed x s).pioReply = .ok) :
    attachPort x k s = k (initialised x s) := by
  rw [attachPort_directed hk hd h h', memWrite_done h'', adopt_writeDone_directed]

end

end Sys2Proof.Safety
end

section
/-! PROOFS. Attach an access of which fails (rules R161, R165, R197): what port A, or port B after it, has
done by then. -/

namespace Sys2Proof.Safety

open Sys2Proof.Machine

/-! One port. -/

/-- From `s` to `u` no register of FPB that a failed attach shows has changed. -/
structure RegsKept (s u : State) : Prop where
  run : u.run = s.run
  resp : u.resp = s.resp
  ctl : u.ctl = s.ctl
  data : u.data = s.data
  freshA : u.freshA = s.freshA

theorem regsKept_judged (x : Port) (s : State) : RegsKept s (judged x s) := ⟨rfl, rfl, rfl, rfl, rfl⟩

theorem regsKept_directed (x : Port) (s : State) : RegsKept s (directed x s) := ⟨rfl, rfl, rfl, rfl, rfl⟩

/-- From `s`, attaching a port has ended in the fault `c` with the peripheral `p` and neither port's mirror taken. -/
structure AttachFailed (c : Cause) (p : Periph) (s t : State) : Prop where
  run : t.run = .faulted
  cause : t.cause = c
  periph : t.periph = p
  resp : t.resp = s.resp
  ctl : t.ctl = s.ctl
  data : t.data = s.data
  freshA : t.freshA = s.freshA

section
variable {s u : State} {left : Byte} {rest : List PioReply}

/-- Outside a command a fault is not answered. -/
theorem raise_attachFailed (hr : s.run = .unattached) (kept : RegsKept s u) (c : Cause) :
    AttachFailed c u.periph s (raise c u) := by
  have silent : u.run ≠ .busy := by simp [kept.run, hr]
  exact ⟨rfl, rfl, rfl, (if_neg silent).trans kept.resp, kept.ctl, kept.data, kept.freshA⟩

/-- A read that fails changes no register of the peripheral (R44). -/
theorem memRead_attachFailed (hr : s.run = .unattached) (kept : RegsKept s u) (h : u.pioReply = .fail left)
    (r : PortReg) (k : Byte → State → State) :
    AttachFailed (accessFault r .read) u.periph s (memRead .seq r k u) := by
  obtain ⟨run, resp, ctl, data, freshA⟩ := kept
  rw [memRead, h]
  exact raise_attachFailed (u := u.popPio.log (.readFail .seq r)) hr ⟨run, resp, ctl, data, freshA⟩ _

/-- A write that fails leaves the register it writes at any value (R45). -/
theorem memWrite_attachFailed (hr : s.run = .unattached) (kept : RegsKept s u) (h : u.pioReply = .fail left)
    (r : PortReg) (v : Byte) (k : State → State) :
    AttachFailed (accessFault r .write) (u.periph.set r left) s (memWrite .seq r v k u) := by
  obtain ⟨run, resp, ctl, data, freshA⟩ := kept
  rw [memWrite, h]
  exact raise_attachFailed (u := (u.popPio.setReg r left).log (.writeFail .seq r v)) hr
    ⟨run, resp, ctl, data, freshA⟩ _

theorem attachPort_judge_fails (x : Port) (k : State → State) (hr : s.run = .unattached)
    (hp : s.env.pio = .fail left :: rest) :
    AttachFailed (accessFault x.dirReg .read) s.periph s (attachPort x k s) :=
  memRead_attachFailed (left := left) hr ⟨rfl, rfl, rfl, rfl, rfl⟩ (by simp [State.pioReply, hp]) _ _

theorem attachPort_adopt_fails (x : Port) (k : State → State) (hr : s.run = .unattached) (hk : NoKill s.env)
    (hd : s.periph.get x.dirReg = Config.dirAllOutput) (hp : s.env.pio = .ok :: .fail left :: rest) :
    AttachFailed (accessFault x.valueReg .read) s.periph s (attachPort x k s) := by
  have fails : (judged x s).pioReply = .fail left := by simp [State.pioReply, judged, hp]
  rw [attachPort_warm hk hd (by simp [State.pioReply, hp])]
  exact memRead_attachFailed hr (regsKept_judged x s) fails _ _

theorem attachPort_direct_fails (x : Port) (k : State → State) (hr : s.run = .unattached) (hk : NoKill s.env)
    (hd : s.periph.get x.dirReg ≠ Config.dirAllOutput) (hp : s.env.pio = .ok :: .fail left :: rest) :
    AttachFailed (accessFault x.dirReg .write) (s.periph.set x.dirReg left) s (attachPort x k s) := by
  have fails : (judged x s).pioReply = .fail left := by simp [State.pioReply, judged, hp]
  rw [attachPort_cold hk hd (by simp [State.pioReply, hp])]
  exact memWrite_attachFailed hr (regsKept_judged x s) fails _ _ _

theorem attachPort_initialise_fails (x : Port) (k : State → State) (hr : s.run = .unattached) (hk : NoKill s.env)
    (hd : s.periph.get x.dirReg ≠ Config.dirAllOutput) (hp : s.env.pio = .ok :: .ok :: .fail left :: rest) :
    AttachFailed (accessFault x.valueReg .write)
      ((s.periph.set x.dirReg Config.dirAllOutput).set x.valueReg left) s (attachPort x k s) := by
  have second : (judged x s).pioReply = .ok := by simp [State.pioReply, judged, hp]
  have fails : (directed x s).pioReply = .fail left := by simp [State.pioReply, directed, hp]
  rw [attachPort_directed hk hd (by simp [State.pioReply, hp]) second]
  exact memWrite_attachFailed hr (regsKept_directed x s) fails _ _ _

end

/-! Port B after port A. -/

section
variable {s : State} {rest : List PioReply}

/-- The answers that port A of this peripheral uses up when none is a failure. -/
def answersOfA (p : Periph) : List PioReply :=
  if p.dirA = Config.dirAllOutput then [.ok, .ok] else [.ok, .ok, .ok]

/-- From `s`, attach has come to port B in `u`, with these answers to come: port A is attached, and nothing else of what
a failed attach shows is changed. -/
structure AtPortB (rest : List PioReply) (s u : State) : Prop where
  run : u.run = s.run
  noKill : NoKill u.env
  pio : u.env.pio = rest
  periph : u.periph = { s.periph with
    dirA := Config.dirAllOutput
    portA := if s.periph.dirA = Config.dirAllOutput then s.periph.portA else 0x00#8 }
  resp : u.resp = s.resp
  ctl : u.ctl = s.ctl
  data : u.data = if s.periph.dirA = Config.dirAllOutput then s.periph.portA else 0x00#8
  freshA : u.freshA = decide (¬ s.periph.dirA = Config.dirAllOutput)

theorem attach_comesToPortB (hk : NoKill s.env) (hp : s.env.pio = answersOfA s.periph ++ rest) :
    ∃ u, attach s = attachPort .b startSession u ∧ AtPortB rest s u := by
  by_cases warm : s.periph.dirA = Config.dirAllOutput
  · have answers : s.env.pio = .ok :: .ok :: rest := by simpa [answersOfA, warm] using hp
    have alive : NoKill (adopted .a s).env := noKill_passed hk
    have come : attach s = attachPort .b startSession (passed (adopted .a s)) := by
      rw [attach, attachPort_adopted (x := .a) hk warm, attachPoint_noKill alive] <;>
        simp [State.pioReply, judged, answers]
    refine ⟨_, come, rfl, noKill_passed alive, ?pio, ?periph, rfl, rfl, (if_pos warm).symm, ?fresh⟩
    case pio => simp [passed, adopted, adopt, answers]
    case periph =>
      rw [if_pos warm, ← warm]
      rfl
    case fresh => simp [passed, adopted, adopt, warm]
  · have answers : s.env.pio = .ok :: .ok :: .ok :: rest := by simpa [answersOfA, warm] using hp
    have alive : NoKill (initialised .a s).env := noKill_passed (noKill_passed hk)
    have come : attach s = attachPort .b startSession (passed (initialised .a s)) := by
      rw [attach, attachPort_initialised (x := .a) hk warm, attachPoint_noKill alive] <;>
        simp [State.pioReply, judged, directed, answers]
    refine ⟨_, come, rfl, noKill_passed alive, ?pio, ?periph, rfl, rfl, (if_neg warm).symm, ?fresh⟩
    case pio => simp [passed, initialised, adopt, answers]
    case periph =>
      rw [if_neg warm]
      rfl
    case fresh => simp [passed, initialised, adopt, warm]

end

/-- Settles O52: attach stops in port A, or it comes to port B and stops there. -/
theorem failedAttachKeepsTheStepsDone : Obligations.FailedAttachKeepsTheStepsDone := by
  intro s left rest hr hk warmA warmB doneA a afterA failed failedA failedB
  have inA {c : Cause} {p : Periph} (h : AttachFailed c p s (attach s)) : failedA c p :=
    ⟨attach s, step_unattached hr, ⟨h.run, h.cause, h.periph, h.resp, h.ctl⟩, h.data⟩
  have inB {answers : List PioReply} {c : Cause} {p : Periph} (hp : s.env.pio = doneA ++ answers)
      (h : ∀ u, AtPortB answers s u → AttachFailed c p u (attachPort .b startSession u)) : failedB c p := by
    obtain ⟨u, e, hu⟩ := attach_comesToPortB hk hp
    have ended := h u hu
    rw [← e] at ended
    exact ⟨attach s, step_unattached hr, ⟨ended.run, ended.cause, ended.periph, ended.resp.trans hu.resp,
      ended.ctl.trans hu.ctl⟩, ended.data.trans hu.data, ended.freshA.trans hu.freshA⟩
  have periphB {answers : List PioReply} {u : State} (hu : AtPortB answers s u) : u.periph = afterA := hu.periph
  have dirB {answers : List PioReply} {u : State} (hu : AtPortB answers s u) : u.periph.get .dirB = s.periph.dirB := by
    rw [periphB hu]
    rfl
  refine ⟨fun hp => inA ?_, fun cold hp => inA ?_, fun cold hp => inA ?_, fun warm hp => inA ?_,
    fun hp => inB hp fun u hu => ?_, fun cold hp => inB hp fun u hu => ?_, fun cold hp => inB hp fun u hu => ?_,
    fun warm hp => inB hp fun u hu => ?_⟩
  · exact attachPort_judge_fails .a _ hr hp
  · exact attachPort_direct_fails .a _ hr hk cold hp
  · exact attachPort_initialise_fails .a _ hr hk cold hp
  · exact attachPort_adopt_fails .a _ hr hk warm hp
  · exact periphB hu ▸ attachPort_judge_fails .b _ (hu.run.trans hr) hu.pio
  · replace cold := (dirB hu).trans_ne cold
    exact periphB hu ▸ attachPort_direct_fails .b _ (hu.run.trans hr) hu.noKill cold hu.pio
  · replace cold := (dirB hu).trans_ne cold
    exact periphB hu ▸ attachPort_initialise_fails .b _ (hu.run.trans hr) hu.noKill cold hu.pio
  · replace warm := (dirB hu).trans warm
    exact periphB hu ▸ attachPort_adopt_fails .b _ (hu.run.trans hr) hu.noKill warm hu.pio

end Sys2Proof.Safety
end

section
/-! PROOFS. A restart, and attach of two cold ports when nothing fails (rules R169, R191, R193, R198). -/

namespace Sys2Proof.Safety

open Sys2Proof.Machine

theorem reliable_tail {e : Env} (h : Reliable e) (sched : List Slot) : Reliable ⟨e.pio.tail, e.img, sched⟩ :=
  ⟨fun r hr => h.1 r (List.mem_of_mem_tail hr), h.2⟩

theorem attachPort_cold_reliable {x : Port} {k : State → State} {s : State} (he : Reliable s.env) (hk : NoKill s.env)
    (hd : s.periph.get x.dirReg ≠ Config.dirAllOutput) : attachPort x k s = k (initialised x s) := by
  have judge := reliable_tail he s.env.sched.tail
  have direct := reliable_tail judge s.env.sched.tail.tail
  exact attachPort_initialised hk hd (pioReply_reliable he) (pioReply_reliable judge) (pioReply_reliable direct)

theorem attach_cold {s : State} (he : Reliable s.env) (hk : NoKill s.env)
    (ha : s.periph.dirA ≠ Config.dirAllOutput) (hb : s.periph.dirB ≠ Config.dirAllOutput) :
    attach s = startSession (initialised .b (passed (initialised .a s))) := by
  have alive : NoKill (initialised .a s).env := noKill_passed (noKill_passed hk)
  have reliable : Reliable (passed (initialised .a s)).env :=
    reliable_tail (reliable_tail (reliable_tail he s.env.sched.tail) s.env.sched.tail.tail) _
  rw [attach, attachPort_cold_reliable (x := .a) he hk ha, attachPoint_noKill alive,
    attachPort_cold_reliable (x := .b) reliable (noKill_passed alive) hb]

/-- Of an ended session a restart makes a new one. -/
theorem step_restart_ended {s : State} {a n : Nat} {rest : List Input} (h : s.run = .faulted ∨ s.run = .terminated)
    (hin : s.inputs = .restart a n :: rest) : step s = .next (newSession { s with inputs := rest }) := by
  have notIdle : s.run ≠ .idle := by obtain h | h := h <;> simp [h]
  have notBusy : s.run ≠ .busy := by obtain h | h := h <;> simp [h]
  rw [step_ended h, restartOnly_restart hin, restart_notLive a n (s := { s with inputs := rest }) notIdle notBusy]

/-- Settles O54: the restart is a new session, and attach initialises both ports. -/
theorem coldAttachReachesTheResetRegisters : Obligations.ColdAttachReachesTheResetRegisters := by
  intro s a n rest hended hin he hk ha hb
  let t := newSession { s with inputs := rest }
  have attached : step t = .next (startSession (initialised .b (passed (initialised .a t)))) := by
    rw [step_unattached rfl, attach_cold (s := t) he hk ha hb]
  exact ⟨t, _, step_restart_ended hended hin, attached,
    rfl, rfl, rfl, rfl, rfl, rfl, rfl, rfl, rfl, rfl, rfl, rfl, rfl, rfl, rfl, rfl⟩

end Sys2Proof.Safety
end

section
/-! PROOFS. Both ports stay all-output while the session lives (rules R191, R198): only attach writes a direction
register, and every session begins with one. -/

namespace Sys2Proof.Safety

open Sys2Proof.Machine

/-- Neither in FAULTED nor in UNATTACHED anything is asked of the direction registers. -/
theorem outputInv_of_ended {s : State} (h : s.run = .faulted ∨ s.run = .unattached) : OutputInv s := by
  intro live
  obtain h | h := h <;> simp [h] at live

theorem outputInv_newSession (s : State) : OutputInv (newSession s) := outputInv_of_ended (.inr rfl)

/-- No update of an instruction writes a direction register or makes an ended session live. -/
theorem outputInv_closedData : ClosedData OutputInv where
  popPio _ h := h
  log _ _ h := h
  setPortB _ _ h := h
  setCtl _ _ h := h
  setRel _ _ h := h
  setRelPending _ _ h := h
  raise _ _ _ _ := outputInv_of_ended (.inl rfl)
  popSched _ _ _ _ h := h
  kill _ _ _ t _ _ _ _ _ := outputInv_newSession t
  busy _ hi h := fun _ => h (.inl hi)
  pos _ _ _ _ h := h
  respond _ _ _ _ hl h := fun _ => h (hl.imp_right .inl)
  setStatus _ _ h := h
  setPortA _ _ h := h
  setData _ _ h := h
  popImg _ h := h
  setHandle _ _ h := h

/-- Attach starts a session with each port all-output (R191 steps 2 and 3): port B's part leaves port A's direction. -/
theorem outputInv_attach (s : State) : OutputInv (attach s) := by
  obtain ⟨v, f, t, w, g, u, e, hA, hB⟩ | ended := attach_cases s
  · have dirA : u.periph.dirA = Config.dirAllOutput := (hB.other .dirA (by decide) (by decide)).trans hA.dir
    rw [e]
    exact fun _ => ⟨dirA, hB.dir⟩
  · exact outputInv_of_ended ended

/-- Settles O59: an instruction, an event and a restart write no direction register, and attach makes both all-output. -/
theorem everyStepKeepsThePortsOutput : Obligations.EveryStepKeepsThePortsOutput := by
  intro s t h e
  have C := outputInv_closedData.toClosed
  refine step_keeps ?instruction ?inputs ?drain ?deliver ?restart ?attach h e
  case instruction =>
    exact fun _ _ h e => outputInv_closedData.execAny (fun _ hi h _ => h (.inl hi)) (fun _ _ h => h) h e
  case inputs => exact fun _ h => h
  case drain => exact C.relDrain
  case deliver => exact fun a n _ h => C.deliver a n h
  case restart => exact fun a n _ _ => outputInv_newSession _
  case attach => exact fun _ _ => outputInv_attach s

end Sys2Proof.Safety
end

section
/-! PROOFS. Attach when nothing fails and nothing kills (rules R191 to R196, R198): each port, cold or warm, ends
all-output with one byte in its value register and its mirror. -/

namespace Sys2Proof.Safety

open Sys2Proof.Machine

theorem Periph.set_get (p : Periph) (r : PortReg) : p.set r (p.get r) = p := by cases r <;> rfl

/-- The byte a port holds after attach: its own if it was warm, else its default. -/
def attachedByte (x : Port) (p : Periph) : Byte :=
  if p.get x.dirReg = Config.dirAllOutput then p.get x.valueReg else x.default

/-- The accesses of attach at one port (R191 steps 1 to 6). -/
def attachAccesses (x : Port) (p : Periph) : List Event :=
  if p.get x.dirReg = Config.dirAllOutput then
    [.read .seq x.dirReg (p.get x.dirReg), .read .seq x.valueReg (p.get x.valueReg)]
  else
    [.read .seq x.dirReg (p.get x.dirReg), .write .seq x.dirReg Config.dirAllOutput,
     .write .seq x.valueReg x.default]

/-- `s` with port `x` attached, and the environment `e` left. -/
def attachedPort (x : Port) (e : Env) (s : State) : State :=
  adopt x (attachedByte x s.periph) (decide (¬ s.periph.get x.dirReg = Config.dirAllOutput))
    { s with
      env := e
      periph := (s.periph.set x.dirReg Config.dirAllOutput).set x.valueReg (attachedByte x s.periph)
      trace := s.trace ++ attachAccesses x s.periph }

section
variable {s : State} (he : Reliable s.env) (hk : NoKill s.env)
include he hk

theorem attachPort_reliable (x : Port) : ∃ e, Reliable e ∧ NoKill e ∧
    ∀ k, attachPort x k s = k (attachedPort x e s) := by
  have judge := reliable_tail he s.env.sched.tail
  by_cases warm : s.periph.get x.dirReg = Config.dirAllOutput
  · refine ⟨⟨s.env.pio.tail.tail, s.env.img, s.env.sched.tail⟩, reliable_tail judge _, noKill_passed hk, fun k => ?_⟩
    have dir : s.periph.set x.dirReg Config.dirAllOutput = s.periph := warm ▸ Periph.set_get ..
    rw [attachPort_adopted hk warm (pioReply_reliable he) (pioReply_reliable judge)]
    simp [attachedPort, attachedByte, attachAccesses, adopted, warm, dir, Periph.set_get]
  · refine ⟨⟨s.env.pio.tail.tail.tail, s.env.img, s.env.sched.tail.tail⟩,
      reliable_tail (reliable_tail judge s.env.sched.tail.tail) _, noKill_passed (noKill_passed hk), fun k => ?_⟩
    rw [attachPort_cold_reliable he hk warm]
    simp [attachedPort, attachedByte, attachAccesses, initialised, warm]

theorem attach_reliable : ∃ e₁ e₂, Reliable e₂ ∧ NoKill e₂ ∧
    attach s = startSession (attachedPort .b e₂ (attachedPort .a e₁ s)) := by
  obtain ⟨e, reliable, alive, portA⟩ := attachPort_reliable he hk .a
  let t := passed (attachedPort .a e s)
  obtain ⟨e₂, reliable₂, alive₂, portB⟩ := attachPort_reliable (s := t) reliable (noKill_passed alive) .b
  refine ⟨t.env, e₂, reliable₂, alive₂, ?_⟩
  rw [attach, portA, attachPoint_noKill (s := attachedPort .a e s) alive, portB]
  rfl

end

/-- Settles O51: attach is port A attached, then port B, then the start of the session. -/
theorem attachJudgesEachPortAlone : Obligations.AttachJudgesEachPortAlone := by
  intro s hr he hk warmA warmB a b
  obtain ⟨e₁, e₂, reliable, alive, e⟩ := attach_reliable he hk
  refine ⟨e₂, reliable, alive, ?_⟩
  rw [step_unattached hr, e]
  rfl

end Sys2Proof.Safety
end

section
/-! PROOFS. An idle step with nothing to do (rule R201), and a pulse with a release inside its hold (rules R111, R146,
R204). -/

namespace Sys2Proof.Safety

open Sys2Proof.Machine

theorem takeInput_nil {s : State} (h : s.inputs = []) : takeInput s = .next (relDrain s) := by rw [takeInput, h]

/-- Settles O8: the step drains what is pending, and nothing is. -/
theorem idleWithoutInputDoesNothing : Obligations.IdleWithoutInputDoesNothing := by
  intro s hi hin hn hr
  rw [step_idle hi, takeInput_nil hin, relDrain, relSteps_nothing _ hn hr]

/-! The points of the command. -/

section
variable {s : State} {b : Bus} {pio : List PioReply} {img : List ImgReply} {rest : List Slot} {pc : SeqPc}
  {h : Option ImageId}

/-- A point at which nothing happens. -/
theorem interleave_quiet :
    interleave (running s b ⟨pio, img, ⟨false, 0, 0⟩ :: rest⟩ pc h) = running s b ⟨pio, img, rest⟩ pc h := rfl

/-- The bus after both writes of a release (R146). -/
def releasedBus (b : Bus) : Bus :=
  { b with
    ctl := b.ctl ||| 0x06#8, portB := b.ctl ||| 0x06#8
    trace := b.trace ++ [.write .rel .portB (b.ctl ||| 0x04#8), .write .rel .portB (b.ctl ||| 0x06#8)] }

/-- A point at which one release event arrives and is handled. -/
theorem interleave_release (hd : s.cfg = Params.decided) (hn : s.relPending = 0) (hr : s.rel = none) :
    interleave (running s b ⟨[], img, ⟨false, 1, 2⟩ :: rest⟩ pc h) =
      running s (releasedBus b) ⟨[], img, rest⟩ pc h := by
  let u := running s b ⟨[], img, rest⟩ pc h
  have live : u.run = .idle ∨ u.run = .busy := .inr rfl
  have first : relStep (u.setRelPending 1) = (lineDone .ef4 u).setRel (some ⟨.stb, .start⟩) :=
    relStep_first live hd hn hr rfl
  have second := relStep_done (s := lineDone .ef4 u) live hd rfl .stb
  have point : interleave (running s b ⟨[], img, ⟨false, 1, 2⟩ :: rest⟩ pc h) =
      relStep (relStep (u.setRelPending (s.relPending + 1))) := rfl
  rw [point, hn, Nat.zero_add, first, second]
  simp [u, lineDone, State.setRel, running, withBus, releasedBus, relAfter, Line.mask, Config.maskEf4, Config.maskStb,
    BitVec.or_assoc, hr]

/-- SEQ comes to an action that does not fail. -/
theorem seqStep_succeeds {e e' : Env} {b' : Bus} {m : Micro} (hd : s.cfg = Params.decided)
    (point : interleave (running s b e m.pos h) = running s b' e' m.pos h) (hs : Succeeds e' m.act) :
    seqStep (running s b e pc h) m = running s (actBus b' m) (envAfter e' m.act) m.pos (actHandle h m) := by
  rw [← perform_succeeds hd b' h hs]
  exact seqStep_go rfl point rfl

/-- An action of port B uses up no answer when no access is to fail, and leaves the image handle. -/
theorem seqStep_onPortB {l l' : List Slot} {b' : Bus} {m : Micro} (hd : s.cfg = Params.decided)
    (point : interleave (running s b ⟨[], img, l⟩ m.pos h) = running s b' ⟨[], img, l'⟩ m.pos h)
    (hB : m.act.onPortB = true) :
    seqStep (running s b ⟨[], img, l⟩ pc h) m = running s (actBus b' m) ⟨[], img, l'⟩ m.pos h := by
  obtain ⟨pos, act⟩ := m
  cases act with
  | setField mask bits => exact seqStep_succeeds hd point rfl
  | holdBegin => exact seqStep_succeeds hd point trivial
  | holdEnd => exact seqStep_succeeds hd point trivial
  | setData | imgOpen | imgNext => cases hB

/-- The bus after a pulse with a release handled inside its hold (R204). -/
def cutShortBus (b : Bus) : Bus :=
  ((releasedBus ((b.setEf4 true).note (.holdBegin 5))).note .holdEnd).setEf4 false

/-- The release has deasserted the line: the deassert write finds its own byte (R204). -/
theorem cutShortBus_eq (b : Bus) : cutShortBus b =
    { b with
      ctl := b.ctl ||| 0x06#8, portB := b.ctl ||| 0x06#8
      trace := b.trace ++ [wB (b.ctl &&& 0xFB#8), .holdBegin 5, .write .rel .portB (b.ctl ||| 0x04#8),
        .write .rel .portB (b.ctl ||| 0x06#8), .holdEnd, wB (b.ctl ||| 0x06#8)] } := by
  have first : ∀ c : Byte, (c &&& 0xFB#8) ||| 0x04#8 = c ||| 0x04#8 := by decide
  have second : ∀ c : Byte, (c &&& 0xFB#8) ||| 0x06#8 = c ||| 0x06#8 := by decide
  simp [cutShortBus, Bus.setEf4, Bus.putB, Bus.note, releasedBus, first, second, BitVec.or_assoc]

/-- The actions of a pulse when one release is handled at the third point. -/
theorem foldl_seqStep_cutShort (hd : s.cfg = Params.decided) (hn : s.relPending = 0) (hr : s.rel = none) :
    (pulseMicros [] 0).foldl seqStep
        (running s b ⟨[], img, [⟨false, 0, 0⟩, ⟨false, 0, 0⟩, ⟨false, 1, 2⟩]⟩ pc h) =
      running s (cutShortBus b) ⟨[], img, []⟩ ⟨[⟨.pulse, 3⟩], 0⟩ h := by
  simp only [pulseMicros, List.foldl_cons, List.foldl_nil]
  rw [seqStep_onPortB hd interleave_quiet, seqStep_onPortB hd interleave_quiet,
    seqStep_onPortB hd (interleave_release hd hn hr), seqStep_onPortB hd (interleave_nil rfl)]
  · simp only [actBus, masked_ef4]
    rfl
  all_goals rfl

end

/-- Settles O41: the release falls at the point before the hold ends; the last point comes after the schedule's end. -/
theorem releaseDuringTheHoldCutsThePulseShort : Obligations.ReleaseDuringTheHoldCutsThePulseShort := by
  intro s hi hd hn hr he
  have start : s.setRun .busy =
      running s (busOf s) ⟨[], [], [⟨false, 0, 0⟩, ⟨false, 0, 0⟩, ⟨false, 1, 2⟩]⟩ s.seqPc s.handle := by
    rw [← he]
    rfl
  have pulse : exec .pulse s = .next (pulseCommand s) := whenIdle_idle hi pulseCommand
  rw [pulse, pulseCommand, command, seqRun, start, foldl_seqStep_cutShort hd hn hr, cutShortBus_eq,
    whileBusy_busy (f := interleave) rfl, interleave_nil rfl, whileBusy_busy rfl]
  rfl

end Sys2Proof.Safety
end
